-- ==== Sys2Proof/Word.lean ====
section
/-! DEFINITION. The bit-vector types of 00_scope.md rule R11: bytes, the 10-bit logical value, the 2-byte frame. -/

namespace Sys2Proof

/-- `u8`, one byte of a frame (R11; its width is PRESUMED, log 19). -/
abbrev Byte := BitVec 8

/-- `u10`, the type of LogicalValue, 0..1023 (R11, R24). -/
abbrev Value := BitVec 10

/-- `Frame2 = u8 × u8` (R11), byte 0 first (R50). -/
abbrev Frame2 := Byte × Byte

end Sys2Proof
end

