-- ==== Sys2Proof/Config.lean ====
section
/-! DEFINITION. The parameters of 00_scope.md rule R9: what the source fixes, what it leaves OPEN, and the free
values of 20_memory.md rules R60 and R62. -/

namespace Sys2Proof

/-- `CallerId`, an OPEN type parameter (R9). DESIGN CHOICE, safe: carried by `Nat`, which no step examines (log 1). -/
abbrev CallerId := Nat

/-- `TErr`, the transport's error payload, an OPEN type parameter (R9, D25). DESIGN CHOICE, safe: carried by `Nat`,
which no step examines (log 1). -/
abbrev TErr := Nat

/-- `VALUE_MAX` (R9). -/
def Config.valueMax : Int := 1023

/-- `WRITE_FRAME_LEN` in bytes (R9). -/
def Config.writeFrameLen : Nat := 2

/-- `READ_FRAME_LEN` in bytes (R9). -/
def Config.readFrameLen : Nat := 3

/-- `WRITE_ALIGN_SHIFT` (R9). -/
def Config.writeAlignShift : Nat := 2

/-- `HAS_RESYNC` (R9, D8): no resynchronisation operation exists. No step reads it. -/
def Config.hasResync : Bool := false

/-- `CHIP_ADDR`, OPEN, read by no rule (R9, R52). DESIGN CHOICE, safe: a number with no value given (log 2). -/
opaque Config.chipAddr : Nat

/-- The draws of R60 and R62, by number: any 10-bit code. DESIGN CHOICE, safe: no body, so nothing can be proved of
a draw's value (log 3). -/
opaque Config.freeCode : Nat → Value

end Sys2Proof
end

