-- ==== Sys2Proof/Syntax.lean ====
section
/-! DEFINITION. The operations of the block (one constructor per row of the opcode table) and the interface records
that carry them (30_encoding.md rules R80, R83, R86, R89). -/

namespace Sys2Proof

/-- A receive completion's payload (20_memory.md R56): bytes of any length, or the transport's error. -/
inductive RecvResult where
  | ok (bytes : List Byte)
  | err (e : TErr)
  deriving DecidableEq, Repr

/-- A send completion's payload (R55): the count the transport reports accepted, or its error. -/
inductive SendResult where
  | ok (n : Int)
  | err (e : TErr)
  deriving DecidableEq, Repr

/-- The eight rows of spec/opcode_table.json. A host operation keeps the request's `arg` though only SET reads it
(R86), so that no field of a record is dropped (log 17). -/
inductive Instr where
  | attach (arg : Int) (caller : CallerId)
  | get (arg : Int) (caller : CallerId)
  | set (arg : Int) (caller : CallerId)
  | detach (arg : Int) (caller : CallerId)
  | recvDone (result : RecvResult)
  | sendDone (result : SendResult)
  | fastWrite (value : Value)
  | readBack (frame : List Byte)
  deriving DecidableEq, Repr

/-- `HostReq = { op : u3, arg : Int, caller : CallerId }` (R86). -/
structure HostReq where
  op : BitVec 3
  arg : Int
  caller : CallerId
  deriving DecidableEq, Repr

/-- `XportCpl = { kind : u1, send : SendResult, recv : RecvResult }`, exactly one payload meaningful (R89). -/
structure XportCpl where
  kind : BitVec 1
  send : SendResult
  recv : RecvResult
  deriving DecidableEq, Repr

/-- What an agent can present to the block: a host request, a transport completion, or the bytes of a wire frame
given to the codec (log 14). -/
inductive Record where
  | host (req : HostReq)
  | xport (cpl : XportCpl)
  | wireWrite (bytes : List Byte)
  | wireRead (bytes : List Byte)
  deriving DecidableEq, Repr

/-- The column "format" of the opcode table. -/
inductive Format where
  | hostReq
  | xportCpl
  | wireWriteFrame
  | wireReadFrame
  deriving DecidableEq, Repr

/-- The format of an instruction's row. -/
def Instr.format : Instr → Format
  | .attach _ _ => .hostReq
  | .get _ _ => .hostReq
  | .set _ _ => .hostReq
  | .detach _ _ => .hostReq
  | .recvDone _ => .xportCpl
  | .sendDone _ => .xportCpl
  | .fastWrite _ => .wireWriteFrame
  | .readBack _ => .wireReadFrame

/-- The format of a record. -/
def Record.format : Record → Format
  | .host _ => .hostReq
  | .xport _ => .xportCpl
  | .wireWrite _ => .wireWriteFrame
  | .wireRead _ => .wireReadFrame

end Sys2Proof
end

