-- ==== Sys2Proof/WellFormed.lean ====
section
/-! DEFINITION. Which terms of `Instr` the encodings admit. The types already bound every other operand: `arg` is
any integer (30_encoding.md R90: an out-of-range one is a RANGE_ERROR, not ill-formed), a value is 10 bits wide, and
a completion carries a byte list of any length (20_memory.md R56). -/

namespace Sys2Proof

/-- A READ_BACK frame has exactly 3 bytes (R85); any other byte list is "malformed (wrong-length) input", which
still runs: DECODE answers FramingError (R113). -/
def Instr.wf : Instr → Bool
  | .readBack frame => frame.length == Config.readFrameLen
  | .attach _ _ => true
  | .get _ _ => true
  | .set _ _ => true
  | .detach _ _ => true
  | .recvDone _ => true
  | .sendDone _ => true
  | .fastWrite _ => true

end Sys2Proof
end

