-- ==== Sys2Proof/Decode.lean ====
section
/-! DEFINITION. From an interface record to an instruction, total, rejecting by name; and the encoder, written from
the same tables (30_encoding.md rules R80, R83, R87, R89, R96). -/

namespace Sys2Proof

/-- Why a record names no instruction. -/
inductive DecodeError where
  /-- A host request with `op[2] = 1` (R88). -/
  | reservedOp (op : BitVec 3)
  /-- A write frame that is not exactly 2 bytes long (R85). -/
  | writeFrameLength (length : Nat)
  /-- A 2-byte write frame with a nonzero padding bit (R93, R117). -/
  | writeFramePadding (frame : Frame2)
  deriving DecidableEq, Repr

/-- R87: the operation codes. -/
def decodeHost (req : HostReq) : Except DecodeError Instr :=
  match req.op.toNat with
  | 0 => .ok (.attach req.arg req.caller)
  | 1 => .ok (.get req.arg req.caller)
  | 2 => .ok (.set req.arg req.caller)
  | 3 => .ok (.detach req.arg req.caller)
  | _ => .error (.reservedOp req.op)

/-- R89: kind 0 is RECV_DONE with the receive payload, kind 1 is SEND_DONE with the send payload; the other payload
carries no meaning and is not read (log 17). -/
def decodeXport (cpl : XportCpl) : Instr :=
  match cpl.kind.toNat with
  | 0 => .recvDone cpl.recv
  | _ => .sendDone cpl.send

/-- R80: the padding, byte0[7:4] and byte1[1:0], of a write frame is zero. -/
def fastWritePaddingZero (frame : Frame2) : Bool :=
  frame.1.extractLsb' 4 4 == 0#4 && frame.2.extractLsb' 0 2 == 0#2

/-- R80: byte0[3:0] is v[9:6] and byte1[7:2] is v[5:0]. -/
def fastWriteValue (frame : Frame2) : Value :=
  frame.1.extractLsb' 0 4 ++ frame.2.extractLsb' 2 6

/-- R80, R117: the frames of FAST_WRITE are the 2-byte frames that match `0000dddddddddd00`; any other byte list is
rejected by name (DESIGN CHOICE, safe: log 15). -/
def decodeWireWrite : List Byte → Except DecodeError Instr
  | [b0, b1] =>
    if fastWritePaddingZero (b0, b1) then .ok (.fastWrite (fastWriteValue (b0, b1)))
    else .error (.writeFramePadding (b0, b1))
  | bytes => .error (.writeFrameLength bytes.length)

/-- The instruction a record carries. A read frame is handed on whole: its length is DECODE's own check (R113). -/
def decode : Record → Except DecodeError Instr
  | .host req => decodeHost req
  | .xport cpl => .ok (decodeXport cpl)
  | .wireWrite bytes => decodeWireWrite bytes
  | .wireRead bytes => .ok (.readBack bytes)

/-- R80: `0000 dddd dddd dd00`, byte 0 the high byte. -/
def fastWriteBytes (v : Value) : List Byte :=
  let w : BitVec 16 := 0#4 ++ v ++ 0#2
  [w.extractLsb' 8 8, w.extractLsb' 0 8]

/-- What the payload without meaning holds in an encoded completion (R89; DESIGN CHOICE, safe: log 17). -/
def unusedSend : SendResult := .ok 0

/-- What the payload without meaning holds in an encoded completion (R89; DESIGN CHOICE, safe: log 17). -/
def unusedRecv : RecvResult := .ok []

/-- The record of an instruction (R87, R89, R80, R83). -/
def encode : Instr → Record
  | .attach arg caller => .host ⟨0b000#3, arg, caller⟩
  | .get arg caller => .host ⟨0b001#3, arg, caller⟩
  | .set arg caller => .host ⟨0b010#3, arg, caller⟩
  | .detach arg caller => .host ⟨0b011#3, arg, caller⟩
  | .recvDone result => .xport ⟨0#1, unusedSend, result⟩
  | .sendDone result => .xport ⟨1#1, result, unusedRecv⟩
  | .fastWrite v => .wireWrite (fastWriteBytes v)
  | .readBack frame => .wireRead frame

/-- The bytes of a number of `n` bytes, the most significant first: a frame's 16-bit and 24-bit views have byte 0
on top (R82, R83). -/
def bytesOfNat : Nat → Nat → List Byte
  | 0, _ => []
  | n + 1, w => BitVec.ofNat 8 (w / 256 ^ n) :: bytesOfNat n w

/-- The record that the host's table word stands for. The table's rows do not say which port a word stands on; the
width does, but for the rows of both ports that fill one byte, which are read at the host port (DESIGN CHOICE, safe:
log 16). Operand fields the table gives no bits are zeros. -/
def tableRecord (nbits w : Nat) : Record :=
  if nbits ≤ 2 then .xport ⟨BitVec.ofNat 1 w, .ok 0, .ok []⟩
  else if nbits ≤ 8 then .host ⟨BitVec.ofNat 3 w, 0, 0⟩
  else if nbits = 24 then .wireRead (bytesOfNat 3 w)
  else .wireWrite (bytesOfNat (nbits / 8) w)

/-- The instruction the decoder reads from a word of spec/opcode_table.json. -/
def decodeTableWord (nbits w : Nat) : Option Instr :=
  (decode (tableRecord nbits w)).toOption

end Sys2Proof
end

