-- ==== Sys2Proof/Machine/State.lean ====
section
/-! DEFINITION. The state: BlockState of 10_state.md rule R20, the chip register of 20_memory.md rule R60, the event
history of rule R53, and the environment's schedule. -/

namespace Sys2Proof.Machine

/-- The faults of 60_exceptions.md R206: a caller or the environment broke a contract the source states. The step
that raises one is a next state with the mark set; `step` answers the fault from then on (R28, log 9). -/
inductive Fault where
  /-- ATTACH_STATE. Raised by ATTACH while Ready or while anything is pending. Safe: nothing runs after it. -/
  | attachState
  /-- NOT_READY. Raised by GET, SET and DETACH outside Ready. Safe: nothing runs after it. -/
  | notReady
  /-- CONCURRENT_SET. Raised by SET while another SET is pending. Safe: nothing runs after it. -/
  | concurrentSet
  /-- DETACH_BUSY. Raised by DETACH while a SET is pending. Safe: nothing runs after it. -/
  | detachBusy
  deriving DecidableEq, Repr

/-- Why `step` or `exec` gives no next state without a fault. -/
inductive Refusal where
  /-- An instruction without a meaning, by its mnemonic. No arm of `exec` answers it. Safe. -/
  | notModelled (mnemonic : String)
  /-- Raised by every step once a reserved op has been refused (R28, R207). Safe: nothing runs after it. -/
  | refusedRun
  /-- Raised by RECV_DONE and SEND_DONE with no matching pending request: "no move" (R150, D26; log 11). Safe. -/
  | noMove
  /-- Raised by GET and by a confirming SEND_DONE where the ChannelState they act on is absent (R26). Only
  ill-formed states get here (log 12). Safe. -/
  | noChannelState
  /-- Raised by `step` on a wire-write record that is no FAST_WRITE frame (R93, U2; log 15). Safe. -/
  | notAWriteFrame
  /-- Raised by `step` when nothing is presented and nothing is pending: the run has ended (R253; log 7). Safe. -/
  | endOfRun
  deriving DecidableEq, Repr

/-- The lifecycle (R23). -/
inductive Life where
  | uninitialized
  | ready
  deriving DecidableEq, Repr

/-- ChannelState (R20, R24, R25). -/
structure ChannelState where
  cachedValue : Value
  validAtCreation : Bool
  deriving DecidableEq, Repr

/-- The one transport transaction in flight (R20, R27). -/
inductive Pending where
  | idle
  | attachPending (caller : CallerId)
  | setPending (caller : CallerId) (v : Value) (frame : Frame2)
  deriving DecidableEq, Repr

/-- BlockState (R20). -/
structure BlockState where
  life : Life
  cs : Option ChannelState
  pending : Pending
  fault : Option Fault
  refused : Bool
  deriving DecidableEq, Repr

/-- What a TRANSPORT_ERROR carries (60_exceptions.md R200). -/
inductive TransportFailure where
  | reported (e : TErr)
  | negativeCount (n : Int)
  deriving DecidableEq, Repr

/-- The status of a response (R200). -/
inductive Status where
  | ok
  | rangeError
  | transportError (why : TransportFailure)
  | shortWriteError
  | framingError
  deriving DecidableEq, Repr

/-- `respond(caller, status, value?)` (00_scope.md R13, R200). -/
structure Response where
  caller : CallerId
  status : Status
  value : Option Int
  deriving DecidableEq, Repr

/-- What DECODE answers (40_codec.md R112, R113). -/
inductive CodecResult where
  | value (v : Value)
  | framingError
  deriving DecidableEq, Repr

/-- One entry of the event history (20_memory.md R53; the entries beside `sent` are the model's own, log 13). -/
inductive Obs where
  /-- `TransportReceive(n)` was issued (R54). -/
  | receiveIssued (n : Nat)
  /-- `TransportSend(frame)` was issued: `Sent(frame)` (R53). -/
  | sent (frame : Frame2)
  /-- A receive completion arrived and was handled (R56). -/
  | received (result : RecvResult)
  /-- A send completion arrived and was handled (R55). -/
  | sendCompleted (result : SendResult)
  /-- A response was delivered (R200). -/
  | responded (r : Response)
  /-- ENCODE produced this frame for a FAST_WRITE record (R110; log 14). -/
  | encoded (frame : Frame2)
  /-- DECODE answered this for a READ_BACK record (R112; log 14). -/
  | decoded (result : CodecResult)
  deriving DecidableEq, Repr

/-- The whole state: the block, the environment the spec keeps beside it, and the model's own fields. -/
structure State where
  /-- BlockState (R20). -/
  block : BlockState
  /-- The chip register (R60). -/
  chip : Value
  /-- The event history, oldest first (R53; log 13). -/
  trace : List Obs
  /-- The records presented and not yet handled, in the scheduler's order (R210; log 7). -/
  inbox : List Record
  /-- How many draws have been taken (R60, R62; log 3). -/
  draws : Nat
  deriving DecidableEq, Repr

/-- R34, R240. -/
def BlockState.reset : BlockState where
  life := .uninitialized
  cs := none
  pending := .idle
  fault := none
  refused := false

/-- Reset (R34, R240). The chip holds draw number 0 (R60, log 3). The history, the inbox and the draw counter are
the model's own fields (logs 13, 7, 3). -/
def State.reset : State where
  block := BlockState.reset
  chip := Config.freeCode 0
  trace := []
  inbox := []
  draws := 1

end Sys2Proof.Machine
end

