-- ==== Sys2Proof/Machine/Codec.lean ====
section
/-! DEFINITION. The RegisterCodec of 40_codec.md: `encode` and `decode`, pure functions with no state (R119). -/

namespace Sys2Proof.Machine

/-- ENCODE (R110): shift left by 2 into the 12-bit field, then split at the byte boundary. -/
def codecEncode (v : Value) : Frame2 :=
  let w : BitVec 12 := v.setWidth 12 <<< Config.writeAlignShift
  ((w.extractLsb' 8 4).setWidth 8, w.extractLsb' 0 8)

/-- DECODE (R112): `(byte1 << 2) | (byte2 >> 6)` at width 10, byte 0 not read; any length other than 3 is a
FramingError before any byte is read (R113). -/
def codecDecode (bytes : List Byte) : CodecResult :=
  match bytes with
  | [_, b1, b2] => .value ((b1.setWidth 10 <<< 2) ||| (b2 >>> 6).setWidth 10)
  | _ => .framingError

/-- `readFrame(v, b0)` of R115: the value re-packed in the read-back layout. -/
def readFrame (v : Value) (b0 : Byte) : List Byte :=
  [b0, (v >>> 2).setWidth 8, ((v &&& 3#10) <<< 6).setWidth 8]

end Sys2Proof.Machine
end

