-- ==== Sys2Proof/Machine/Operands.lean ====
section
/-! DEFINITION. The operand forms: SET's argument (30_encoding.md R90), the two completion payloads (20_memory.md R55,
R56), GET's result, and the status codes (60_exceptions.md R200). -/

namespace Sys2Proof.Machine

/-- SET's operand (R90): the u10 of an argument in 0..1023, and nothing outside. No truncation, wrap or
saturation. -/
def setOperand (arg : Int) : Option Value :=
  if arg < 0 ∨ arg > Config.valueMax then none else some (BitVec.ofInt 10 arg)

/-- `getValue -> int`: the u10 zero-extended (41_channel.md R143). -/
def getResult (v : Value) : Int := v.toNat

/-- How a completion comes out: the transaction succeeded with a payload, or failed with a status. -/
inductive Completed (α : Type) where
  | done (payload : α)
  | failed (status : Status)
  deriving DecidableEq, Repr

/-- A receive completion (R56, R142): the transport's failure comes before the frame is looked at (R209). -/
def classifyRecv (r : RecvResult) : Completed Value :=
  match r with
  | .err e => .failed (.transportError (.reported e))
  | .ok bytes =>
    match codecDecode bytes with
    | .framingError => .failed .framingError
    | .value v => .done v

/-- A send completion (R55, R145): the transport's error, then a negative count, then a count other than 2. -/
def classifySend (r : SendResult) : Completed Unit :=
  match r with
  | .err e => .failed (.transportError (.reported e))
  | .ok n =>
    if n < 0 then .failed (.transportError (.negativeCount n))
    else if n ≠ Config.writeFrameLen then .failed .shortWriteError
    else .done ()

/-- The numeric codes of R200: labels only (D4). -/
def Status.code : Status → Nat
  | .ok => 0
  | .rangeError => 1
  | .transportError _ => 2
  | .shortWriteError => 3
  | .framingError => 4

end Sys2Proof.Machine
end

