-- ==== Sys2Proof/Machine/Flags.lean ====
section
/-! DEFINITION. The one flag, `validAtCreation` (10_state.md R25): set when an attach succeeds, cleared by every
confirmed write, even one of the value already cached. -/

namespace Sys2Proof.Machine

/-- The ChannelState a successful attach creates (41_channel.md R142). -/
def channelAtAttach (v : Value) : ChannelState :=
  { cachedValue := v, validAtCreation := true }

/-- The ChannelState after a confirmed write of `v` (R145). -/
def channelAfterWrite (c : ChannelState) (v : Value) : ChannelState :=
  { c with cachedValue := v, validAtCreation := false }

end Sys2Proof.Machine
end

