-- ==== Sys2Proof/Machine/Ops.lean ====
section
/-! DEFINITION. The shared operations: the primitives of 00_scope.md rule R13, the common guard of 10_state.md rule
R28, raising a fault, and taking the next record. There is no memory, register file or trap to operate on (R13,
R211). -/

namespace Sys2Proof.Machine

/-- Append one entry to the event history. -/
def State.emit (e : Obs) (s : State) : State := { s with trace := s.trace ++ [e] }

/-- `s.life <- l`. -/
def State.setLife (l : Life) (s : State) : State := { s with block := { s.block with life := l } }

/-- `s.cs <- c`. -/
def State.setChannel (c : Option ChannelState) (s : State) : State := { s with block := { s.block with cs := c } }

/-- `s.pending <- p`. -/
def State.setPending (p : Pending) (s : State) : State := { s with block := { s.block with pending := p } }

/-- `s.fault <- some k`. -/
def State.markFault (k : Fault) (s : State) : State := { s with block := { s.block with fault := some k } }

/-- `s.refused <- true`. -/
def State.markRefused (s : State) : State := { s with block := { s.block with refused := true } }

/-- The chip register becomes `v` (20_memory.md R61). -/
def State.setChip (v : Value) (s : State) : State := { s with chip := v }

/-- The chip register becomes a draw (R62): a fresh free value. -/
def State.drawChip (s : State) : State := { s with chip := Config.freeCode s.draws, draws := s.draws + 1 }

/-- `TransportReceive(3)` (R54). -/
def transportReceive (s : State) : State := s.emit (.receiveIssued Config.readFrameLen)

/-- `TransportSend(frame)` (R53). -/
def transportSend (frame : Frame2) (s : State) : State := s.emit (.sent frame)

/-- `respond(caller, status, value?)` (R13, R200). -/
def respond (caller : CallerId) (status : Status) (value : Option Int) (s : State) : State :=
  s.emit (.responded { caller := caller, status := status, value := value })

/-- `raise Fault(kind)` (R13, R206): the one shared way a step faults. The mark is set, nothing else changes. -/
def raiseFault (k : Fault) (s : State) : Host.Outcome State Fault Refusal := .next (s.markFault k)

/-- `refuse(RESERVED_OP)` (R13, R207): the mark is set, nothing else changes. -/
def refuseRequest (s : State) : Host.Outcome State Fault Refusal := .next s.markRefused

/-- The common guard (R28): no step is enabled once `fault` or `refused` is set. Where both are (no run gets there)
the fault is answered (log 9). -/
def guarded (act : State → Host.Outcome State Fault Refusal) (s : State) : Host.Outcome State Fault Refusal :=
  match s.block.fault with
  | some k => .fault k
  | none => if s.block.refused then .refused .refusedRun else act s

/-- The next record and the state without it (60_exceptions.md R210: one event a step). -/
def fetch (s : State) : Option (Record × State) :=
  match s.inbox with
  | [] => none
  | r :: rest => some (r, { s with inbox := rest })

/-- Nothing is presented (70_reset_and_hazards.md R252, R253): with a transaction pending the block waits, which is a
hang if nothing ever comes; with none pending the run has ended (DESIGN CHOICE, safe: log 7). -/
def awaitRecord (s : State) : Host.Outcome State Fault Refusal :=
  match s.block.pending with
  | .idle => .refused .endOfRun
  | .attachPending _ => .next s
  | .setPending _ _ _ => .next s

/-- A record that names no instruction: a reserved op is refused with the mark (R88, R207); bytes that are no
FAST_WRITE frame are refused by name (log 15). -/
def rejectRecord (e : DecodeError) (s : State) : Host.Outcome State Fault Refusal :=
  match e with
  | .reservedOp _ => refuseRequest s
  | .writeFrameLength _ => .refused .notAWriteFrame
  | .writeFramePadding _ => .refused .notAWriteFrame

end Sys2Proof.Machine
end

