-- ==== Sys2Proof/Machine/Completions.lean ====
section
/-! DEFINITION. The transport completions of 41_channel.md: RECV_DONE (R142) and SEND_DONE (R145). A completion with
no matching pending request has no move (R150). -/

namespace Sys2Proof.Machine

/-- The end of an attach, the pending mark already cleared (R142): the Channel comes into being whole, or the caller
gets the error and nothing does. -/
def finishAttach (caller : CallerId) (outcome : Completed Value) (s : State) : State :=
  match outcome with
  | .failed status => respond caller status none s
  | .done v => respond caller .ok none ((s.setChannel (some (channelAtAttach v))).setLife .ready)

/-- RECV_DONE (R142): enabled only while an attach is pending. -/
def execRecvDone (result : RecvResult) (s : State) : Host.Outcome State Fault Refusal :=
  guarded (fun s =>
    match s.block.pending with
    | .attachPending c =>
      .next (finishAttach c (classifyRecv result) ((s.emit (.received result)).setPending .idle))
    | .idle => .refused .noMove
    | .setPending _ _ _ => .refused .noMove) s

/-- The end of a SET, the pending mark already cleared (R145): a count of exactly 2 commits the value, clears the
flag and leaves the value in the chip (R61); anything else leaves the cache alone and the chip a draw (R62). -/
def finishSet (caller : CallerId) (v : Value) (outcome : Completed Unit) (s : State) :
    Host.Outcome State Fault Refusal :=
  match outcome with
  | .failed status => .next (respond caller status none s.drawChip)
  | .done () =>
    match s.block.cs with
    | none => .refused .noChannelState
    | some c => .next (respond caller .ok none ((s.setChannel (some (channelAfterWrite c v))).setChip v))

/-- SEND_DONE (R145): enabled only while a SET is pending. -/
def execSendDone (result : SendResult) (s : State) : Host.Outcome State Fault Refusal :=
  guarded (fun s =>
    match s.block.pending with
    | .setPending c v _ =>
      finishSet c v (classifySend result) ((s.emit (.sendCompleted result)).setPending .idle)
    | .idle => .refused .noMove
    | .attachPending _ => .refused .noMove) s

end Sys2Proof.Machine
end

