-- ==== Sys2Proof/Machine/HostOps.lean ====
section
/-! DEFINITION. The host operations of 41_channel.md: ATTACH (R141), GET (R143), SET (R144), DETACH (R146). -/

namespace Sys2Proof.Machine

/-- ATTACH (R141): issue the read-back. -/
def execAttach (caller : CallerId) (s : State) : Host.Outcome State Fault Refusal :=
  guarded (fun s =>
    if s.block.life = .ready ∨ s.block.pending ≠ .idle then raiseFault .attachState s
    else .next ((transportReceive s).setPending (.attachPending caller))) s

/-- GET (R143): answer the cached value; no transport request, nothing written. -/
def execGet (caller : CallerId) (s : State) : Host.Outcome State Fault Refusal :=
  guarded (fun s =>
    if s.block.life ≠ .ready then raiseFault .notReady s
    else
      match s.block.cs with
      | none => .refused .noChannelState
      | some c => .next (respond caller .ok (some (getResult c.cachedValue)) s)) s

/-- SET (R144): the two state checks, then the range check, then encode and send. -/
def execSet (arg : Int) (caller : CallerId) (s : State) : Host.Outcome State Fault Refusal :=
  guarded (fun s =>
    if s.block.life ≠ .ready then raiseFault .notReady s
    else if s.block.pending ≠ .idle then raiseFault .concurrentSet s
    else
      match setOperand arg with
      | none => .next (respond caller .rangeError none s)
      | some v =>
        .next ((transportSend (codecEncode v) s).setPending (.setPending caller v (codecEncode v)))) s

/-- DETACH (R146): destroy the Channel; nothing goes to the chip. -/
def execDetach (caller : CallerId) (s : State) : Host.Outcome State Fault Refusal :=
  guarded (fun s =>
    if s.block.life ≠ .ready then raiseFault .notReady s
    else if s.block.pending ≠ .idle then raiseFault .detachBusy s
    else .next (respond caller .ok none ((s.setChannel none).setLife .uninitialized))) s

end Sys2Proof.Machine
end

