-- ==== Sys2Proof/Machine/WireFrames.lean ====
section
/-! DEFINITION. The two frame rows of the opcode table as evaluations of the RegisterCodec: FAST_WRITE is ENCODE
(40_codec.md R110), READ_BACK is DECODE (R112, R113). The codec writes no state (R119); what it answers stands in the
event history (DESIGN CHOICE, safe: log 14). -/

namespace Sys2Proof.Machine

/-- FAST_WRITE: ENCODE of the value the frame carries (R110). -/
def execFastWrite (v : Value) (s : State) : Host.Outcome State Fault Refusal :=
  guarded (fun s => .next (s.emit (.encoded (codecEncode v)))) s

/-- READ_BACK: DECODE of the bytes (R112), FramingError on any length but 3 (R113). -/
def execReadBack (frame : List Byte) (s : State) : Host.Outcome State Fault Refusal :=
  guarded (fun s => .next (s.emit (.decoded (codecDecode frame)))) s

end Sys2Proof.Machine
end

