-- ==== Sys2Proof/Machine/Dispatch.lean ====
section
/-! DEFINITION. One arm per row of the opcode table. -/

namespace Sys2Proof.Machine

def exec (i : Instr) (s : State) : Host.Outcome State Fault Refusal :=
  match i with
  | .attach _ caller => Sys2Proof.Machine.execAttach caller s
  | .get _ caller => Sys2Proof.Machine.execGet caller s
  | .set arg caller => Sys2Proof.Machine.execSet arg caller s
  | .detach _ caller => Sys2Proof.Machine.execDetach caller s
  | .recvDone result => Sys2Proof.Machine.execRecvDone result s
  | .sendDone result => Sys2Proof.Machine.execSendDone result s
  | .fastWrite value => Sys2Proof.Machine.execFastWrite value s
  | .readBack frame => Sys2Proof.Machine.execReadBack frame s

end Sys2Proof.Machine
end

