-- ==== Sys2Proof/Machine/Step.lean ====
section
/-! DEFINITION. One step: one event (60_exceptions.md rule R210), under the common guard of 10_state.md rule R28. -/

namespace Sys2Proof.Machine

/-- Handle one presented record that has been taken out of the inbox. -/
def handleRecord (r : Record) (s : State) : Host.Outcome State Fault Refusal :=
  match decode r with
  | .ok i => exec i s
  | .error e => rejectRecord e s

/-- One step of the block. -/
def step (s : State) : Host.Outcome State Fault Refusal :=
  guarded (fun s =>
    match fetch s with
    | none => awaitRecord s
    | some (r, s) => handleRecord r s) s

/-- Present the record of a table word as the next one (log 8): the block has no program store (10_state.md R22). -/
def State.withFetchWord (s : State) (nbits w : Nat) : State :=
  { s with inbox := tableRecord nbits w :: s.inbox }

end Sys2Proof.Machine
end

