-- ==== Sys2Proof/Safety.lean ====
section
/-! DEFINITION. The terms in which claims about the block are made: the well-formedness of 10_state.md rule R29, the
relationship of rule R30, the assumption of 20_memory.md rule R63, the views of the event history, the end of a run
(70_reset_and_hazards.md rule R253), and renamings of the OPEN types of 00_scope.md rule R9. -/

namespace Sys2Proof.Machine

/-- The common guard of R28 holds: neither mark is set. -/
abbrev State.Running (s : State) : Prop := s.block.fault = none ∧ s.block.refused = false

/-- R29, its four clauses in order. -/
structure BlockState.WellFormed (b : BlockState) : Prop where
  channel_iff_ready : b.life = .ready ↔ b.cs ≠ none
  attach_uninitialized : ∀ c, b.pending = .attachPending c → b.life = .uninitialized
  set_ready : ∀ c v f, b.pending = .setPending c v f → b.life = .ready
  set_frame : ∀ c v f, b.pending = .setPending c v f → f = codecEncode v

/-- What the wire has shown so far: the last frame sent, and what the last attach or confirmed write established.
Computed from the event history alone, it is the other side of R30. -/
structure WireView where
  lastSent : Option Frame2
  latest : Option ChannelState
  deriving DecidableEq, Repr

/-- One event of the history (R30): a read-back that decodes makes the Channel (flag true), a completed send of
exactly 2 bytes confirms the last frame sent (flag false), every other event establishes nothing. -/
def WireView.observe (w : WireView) : Obs → WireView
  | .sent f => { w with lastSent := some f }
  | .received (.ok bytes) =>
    match codecDecode bytes with
    | .value v => { w with latest := some ⟨v, true⟩ }
    | .framingError => w
  | .sendCompleted (.ok n) =>
    if n = 2 then { w with latest := w.lastSent.map fun f => ⟨fastWriteValue f, false⟩ } else w
  | .received (.err _) => w
  | .sendCompleted (.err _) => w
  | .receiveIssued _ => w
  | .responded _ => w
  | .encoded _ => w
  | .decoded _ => w

/-- The view of a whole history. -/
def wireView (trace : List Obs) : WireView := trace.foldl WireView.observe ⟨none, none⟩

/-- R30 over the history: while Ready, the cached value and its flag are what the wire last established. The second
clause is what carries it from a SET to its completion: the frame of the pending SET is the last one sent. -/
structure State.Relationship (s : State) : Prop where
  cache_is_latest : s.block.life = .ready → s.block.cs = (wireView s.trace).latest
  pending_was_sent : ∀ c v f, s.block.pending = .setPending c v f → (wireView s.trace).lastSent = some f

/-- R63: a 3-byte read-back carries the chip register. An assumption on the environment that no step checks
(log 6). -/
def ReadBackHonest (r : RecvResult) (s : State) : Prop :=
  ∀ b0 b1 b2, r = .ok [b0, b1, b2] → codecDecode [b0, b1, b2] = .value s.chip

/-- The chip-side half of R30: while Ready, the cache holds the chip register. -/
def State.InSync (s : State) : Prop :=
  s.block.life = .ready → ∃ c, s.block.cs = some c ∧ c.cachedValue = s.chip

/-- `Sent(frame)` events, oldest first (R53). -/
def sentFrames (es : List Obs) : List Frame2 :=
  es.filterMap fun | .sent f => some f | _ => none

/-- Responses delivered, oldest first (R200). -/
def responses (es : List Obs) : List Response :=
  es.filterMap fun | .responded r => some r | _ => none

/-- Transport requests issued, oldest first: `TransportSend` and `TransportReceive` (R53, R54). -/
def transportRequests (es : List Obs) : List Obs :=
  es.filter fun | .sent _ => true | .receiveIssued _ => true | _ => false

/-- A good end of a run (R253): neither mark set, nothing pending, every request answered. -/
def State.GoodEnd (s : State) : Prop := s.Running ∧ s.block.pending = .idle ∧ s.inbox = []

/-- The states of the runs (R210): reset, then the environment presents records in any number and order, and the
block steps. -/
inductive Reachable : State → Prop where
  | atReset : Reachable State.reset
  | presented {s : State} (r : Record) (h : Reachable s) : Reachable { s with inbox := s.inbox ++ [r] }
  | stepped {s t : State} (h : Reachable s) (hs : step s = .next t) : Reachable t

/-- A renaming of the OPEN types `CallerId` and `TErr` (R9). -/
structure Relabel where
  caller : CallerId → CallerId
  err : TErr → TErr

def Relabel.recv (ρ : Relabel) : RecvResult → RecvResult
  | .ok bytes => .ok bytes
  | .err e => .err (ρ.err e)

def Relabel.send (ρ : Relabel) : SendResult → SendResult
  | .ok n => .ok n
  | .err e => .err (ρ.err e)

def Relabel.instr (ρ : Relabel) : Instr → Instr
  | .attach arg c => .attach arg (ρ.caller c)
  | .get arg c => .get arg (ρ.caller c)
  | .set arg c => .set arg (ρ.caller c)
  | .detach arg c => .detach arg (ρ.caller c)
  | .recvDone r => .recvDone (ρ.recv r)
  | .sendDone r => .sendDone (ρ.send r)
  | .fastWrite v => .fastWrite v
  | .readBack frame => .readBack frame

def Relabel.record (ρ : Relabel) : Record → Record
  | .host r => .host { r with caller := ρ.caller r.caller }
  | .xport c => .xport { c with send := ρ.send c.send, recv := ρ.recv c.recv }
  | .wireWrite bytes => .wireWrite bytes
  | .wireRead bytes => .wireRead bytes

def Relabel.pending (ρ : Relabel) : Pending → Pending
  | .idle => .idle
  | .attachPending c => .attachPending (ρ.caller c)
  | .setPending c v f => .setPending (ρ.caller c) v f

def Relabel.status (ρ : Relabel) : Status → Status
  | .ok => .ok
  | .rangeError => .rangeError
  | .transportError (.reported e) => .transportError (.reported (ρ.err e))
  | .transportError (.negativeCount n) => .transportError (.negativeCount n)
  | .shortWriteError => .shortWriteError
  | .framingError => .framingError

def Relabel.obs (ρ : Relabel) : Obs → Obs
  | .receiveIssued n => .receiveIssued n
  | .sent f => .sent f
  | .received r => .received (ρ.recv r)
  | .sendCompleted r => .sendCompleted (ρ.send r)
  | .responded r => .responded { r with caller := ρ.caller r.caller, status := ρ.status r.status }
  | .encoded f => .encoded f
  | .decoded r => .decoded r

def Relabel.state (ρ : Relabel) (s : State) : State :=
  { s with
    block := { s.block with pending := ρ.pending s.block.pending }
    trace := s.trace.map ρ.obs
    inbox := s.inbox.map ρ.record }

def Relabel.outcome (ρ : Relabel) :
    Host.Outcome State Fault Refusal → Host.Outcome State Fault Refusal
  | .next s => .next (ρ.state s)
  | .fault k => .fault k
  | .refused r => .refused r

end Sys2Proof.Machine
end

