-- ==== Sys2Proof/Certificates/Slice0/Obligations.lean ====
section
/-! DEFINITION. The statements for the provers. Each says which rule of spec/ it formalises; a clause that rests on a
choice of the model names its log entry. `s.Running` is the common guard of 10_state.md rule R28. -/

open Sys2Proof Sys2Proof.Machine

/-! ## The codec (30_encoding.md, 40_codec.md) -/

/-- R92: `byte0 = {0000, v[9:6]}` and `byte1 = {v[5:0], 00}`. -/
def Obligations.EncodeAssemblesTheWriteFrame : Prop :=
  ∀ v : Value, codecEncode v = (0#4 ++ v.extractLsb' 6 4, v.extractLsb' 0 6 ++ 0#2)

/-- R82: the 16-bit view of the write frame is the value shifted left by 2, and its low 12 bits are `{v, 00}`. -/
def Obligations.WriteFrameViewIsTheValueShiftedByTwo : Prop :=
  ∀ (v : Value) (w : BitVec 16), w = (codecEncode v).1 ++ (codecEncode v).2 →
    w = v.setWidth 16 <<< 2 ∧ w.extractLsb' 12 4 = 0#4 ∧ w.extractLsb' 2 10 = v ∧ w.extractLsb' 0 2 = 0#2 ∧
    w.extractLsb' 0 12 = v ++ 0#2

/-- R117: ENCODE is injective, and its image is exactly the frames with zero padding. -/
def Obligations.EncodeIsInjectiveOntoThePaddedFrames : Prop :=
  (∀ v v' : Value, codecEncode v = codecEncode v' → v = v') ∧
  ∀ f : Frame2, (∃ v, codecEncode v = f) ↔ f.1.extractLsb' 4 4 = 0#4 ∧ f.2.extractLsb' 0 2 = 0#2

/-- R91: the read-back value is `{b1, b2[7:6]}`, which is `(b1 << 2) | (b2 >> 6)` at width 10. -/
def Obligations.DecodeAssemblesTheReadBackValue : Prop :=
  ∀ b0 b1 b2 : Byte,
    codecDecode [b0, b1, b2] = .value (b1 ++ b2.extractLsb' 6 2) ∧
    b1 ++ b2.extractLsb' 6 2 = (b1.setWidth 10 <<< 2) ||| (b2 >>> 6).setWidth 10

/-- R113: an input whose length is not exactly 3 is a FramingError; R112's "no failure modes" on 3 bytes. -/
def Obligations.DecodeRejectsEveryOtherLength : Prop :=
  ∀ bytes : List Byte,
    (bytes.length ≠ 3 → codecDecode bytes = .framingError) ∧
    (bytes.length = 3 → ∃ v, codecDecode bytes = .value v)

/-- R118: DECODE ignores byte 0 and the low 6 bits of byte 2, and the frames of each value are exactly those that
byte 0 and those 6 bits tell apart, so 2^14 of them. -/
def Obligations.DecodeIgnoresExactlyFourteenBits : Prop :=
  (∀ b0 b0' b1 b2 b2' : Byte, b2.extractLsb' 6 2 = b2'.extractLsb' 6 2 →
    codecDecode [b0, b1, b2] = codecDecode [b0', b1, b2']) ∧
  (∀ (v : Value) (frame : List Byte), codecDecode frame = .value v ↔
    ∃ (b0 : Byte) (x : BitVec 6), frame = [b0, v.extractLsb' 2 8, v.extractLsb' 0 2 ++ x]) ∧
  ∀ (v : Value) (b0 b0' : Byte) (x x' : BitVec 6),
    [b0, v.extractLsb' 2 8, v.extractLsb' 0 2 ++ x] = [b0', v.extractLsb' 2 8, v.extractLsb' 0 2 ++ x'] →
      b0 = b0' ∧ x = x'

/-- R115: the round trip through the read-back layout, and the example that ENCODE's own bytes are no such frame. -/
def Obligations.ReadFrameDecodesToItsValue : Prop :=
  (∀ (v : Value) (b0 : Byte),
    codecDecode [b0, v.extractLsb' 2 8, v.extractLsb' 0 2 ++ 0#6] = .value v ∧
    readFrame v b0 = [b0, v.extractLsb' 2 8, v.extractLsb' 0 2 ++ 0#6] ∧
    codecDecode (readFrame v b0) = .value v) ∧
  codecEncode 512 = (0x08, 0x00) ∧ ∀ b0 : Byte, codecDecode [b0, 0x08, 0x00] = .value 32

/-- R116: the 16-bit views of the two layouts differ by a shift of 4. -/
def Obligations.LayoutsDifferByAShiftOfFour : Prop :=
  ∀ (v : Value) (b0 : Byte) (w : BitVec 16), w = (codecEncode v).1 ++ (codecEncode v).2 →
    ∃ b1 b2 : Byte, readFrame v b0 = [b0, b1, b2] ∧ b1 ++ b2 = w <<< 4 ∧ w <<< 4 = v.setWidth 16 <<< 6

/-! ## Records and words -/

/-- Decoding the record of any instruction gives it back, with every operand at every value. -/
def Obligations.DecodeOfEncodeIsTheInstruction : Prop :=
  ∀ i : Instr, decode (encode i) = .ok i

/-- The other direction: a record that decodes is the encoding of what it decodes to, but for the payload of a
completion that carries no meaning (R89; what the encoder puts there is the model's choice, log 17). -/
def Obligations.EncodeOfDecodeIsTheRecord : Prop :=
  ∀ (r : Record) (i : Instr), decode r = .ok i →
    match r with
    | .xport c =>
      encode i = .xport { c with send := if c.kind = 0#1 then unusedSend else c.send,
                                 recv := if c.kind = 0#1 then c.recv else unusedRecv }
    | r => encode i = r

/-- The decoder accepts as FAST_WRITE exactly the frames ENCODE makes (R80, R93, R117; that other write frames are
rejected as records is the model's choice, log 15). -/
def Obligations.AcceptedWriteFramesAreTheEncodedOnes : Prop :=
  ∀ (bytes : List Byte) (i : Instr), decode (.wireWrite bytes) = .ok i ↔
    ∃ v, i = .fastWrite v ∧ bytes = [(codecEncode v).1, (codecEncode v).2]

/-- Words written out from R87, R89, R80 and R83 decode to their rows (the port of a word is read from its width:
the model's choice, log 16). -/
def Obligations.WordsOfTheOpcodeTableDecode : Prop :=
  decodeTableWord 3 0b000 = some (.attach 0 0) ∧
  decodeTableWord 3 0b001 = some (.get 0 0) ∧
  decodeTableWord 3 0b010 = some (.set 0 0) ∧
  decodeTableWord 3 0b011 = some (.detach 0 0) ∧
  decodeTableWord 3 0b100 = none ∧
  decodeTableWord 1 0b0 = some (.recvDone (.ok [])) ∧
  decodeTableWord 1 0b1 = some (.sendDone (.ok 0)) ∧
  decodeTableWord 16 0b0000010010110000 = some (.fastWrite 300) ∧
  decodeTableWord 16 0b0001010010110000 = none ∧
  decodeTableWord 24 0b110000000100101100111111 = some (.readBack [0xC0, 0x4B, 0x3F])

/-- R87: the operation codes, for every argument and caller; and the completion kinds of R89. -/
def Obligations.OperationCodesNameTheirOperations : Prop :=
  ∀ (arg : Int) (c : CallerId) (x : SendResult) (r : RecvResult),
    decode (.host ⟨0b000#3, arg, c⟩) = .ok (.attach arg c) ∧
    decode (.host ⟨0b001#3, arg, c⟩) = .ok (.get arg c) ∧
    decode (.host ⟨0b010#3, arg, c⟩) = .ok (.set arg c) ∧
    decode (.host ⟨0b011#3, arg, c⟩) = .ok (.detach arg c) ∧
    (∀ op : BitVec 3, 4 ≤ op.toNat → decode (.host ⟨op, arg, c⟩) = .error (.reservedOp op)) ∧
    decode (.xport ⟨0#1, x, r⟩) = .ok (.recvDone r) ∧
    decode (.xport ⟨1#1, x, r⟩) = .ok (.sendDone x)

/-! ## The step -/

/-- A step takes the next record and runs the instruction it decodes to, in the state without the record (R210: one
event a step). -/
def Obligations.StepRunsTheDecodedInstruction : Prop :=
  ∀ (s : State) (r : Record) (rest : List Record) (i : Instr),
    s.Running → s.inbox = r :: rest → decode r = .ok i → step s = exec i { s with inbox := rest }

/-- R207: a reserved op sets `refused`, changes nothing else, and no step is enabled afterwards. -/
def Obligations.ReservedOperationIsRefused : Prop :=
  ∀ (s : State) (op : BitVec 3) (arg : Int) (c : CallerId) (rest : List Record),
    s.Running → s.inbox = .host ⟨op, arg, c⟩ :: rest → 4 ≤ op.toNat →
    ∃ t, step s = .next t ∧ t = { s with block := { s.block with refused := true }, inbox := rest } ∧
      (∀ u, step t ≠ .next u) ∧ ∀ i u, exec i t ≠ .next u

/-- R28: both marks are clear at reset, and from a state in which either is set no step is enabled, so neither is
ever cleared. -/
def Obligations.MarkedBlockTakesNoStep : Prop :=
  State.reset.block.fault = none ∧ State.reset.block.refused = false ∧
  ∀ s : State, s.block.fault ≠ none ∨ s.block.refused = true →
    (∀ t, step s ≠ .next t) ∧ ∀ i t, exec i s ≠ .next t

/-- R252, R253: with nothing presented, a pending block waits and stays as it is, and an idle one has reached the
end of its run (which outcome stands for the end is the model's choice, log 7). -/
def Obligations.NothingPresentedIsAHangOrTheEnd : Prop :=
  ∀ s : State, s.Running → s.inbox = [] →
    (s.block.pending ≠ .idle → step s = .next s) ∧
    (s.block.pending = .idle → step s = .refused .endOfRun ∧ s.GoodEnd)

/-- A step only appends to the event history and takes at most the head of the inbox (R53, R210). -/
def Obligations.StepAppendsHistoryAndConsumesInOrder : Prop :=
  ∀ s t : State, step s = .next t →
    (∃ es, t.trace = s.trace ++ es) ∧ t.inbox = s.inbox.tail

/-- R34: every field of the block at reset. -/
def Obligations.ResetIsTheListedState : Prop :=
  State.reset.block.life = .uninitialized ∧ State.reset.block.cs = none ∧ State.reset.block.pending = .idle ∧
  State.reset.block.fault = none ∧ State.reset.block.refused = false

/-! ## The operations (41_channel.md) -/

/-- R141: ATTACH faults where a Channel exists or anything is pending, else asks for 3 bytes. -/
def Obligations.AttachIssuesTheReadBackOrFaults : Prop :=
  ∀ (s : State) (arg : Int) (c : CallerId), s.Running →
    (s.block.life = .ready ∨ s.block.pending ≠ .idle →
      exec (.attach arg c) s = .next { s with block := { s.block with fault := some .attachState } }) ∧
    (s.block.life = .uninitialized ∧ s.block.pending = .idle →
      exec (.attach arg c) s =
        .next { s with block := { s.block with pending := .attachPending c },
                       trace := s.trace ++ [.receiveIssued 3] })

/-- R142, R241: RECV_DONE while an attach is pending: a transport error, a frame of another length, or a new
Channel with the decoded value and the flag true; one response, no transport request, and the rest unchanged. -/
def Obligations.ReceiveCompletionFinishesTheAttach : Prop :=
  ∀ (s : State) (c : CallerId), s.Running → s.block.pending = .attachPending c →
    (∀ e, ∃ t, exec (.recvDone (.err e)) s = .next t ∧
      t.block = { s.block with pending := .idle } ∧
      responses t.trace = responses s.trace ++ [⟨c, .transportError (.reported e), none⟩] ∧
      transportRequests t.trace = transportRequests s.trace) ∧
    (∀ bytes : List Byte, bytes.length ≠ 3 → ∃ t, exec (.recvDone (.ok bytes)) s = .next t ∧
      t.block = { s.block with pending := .idle } ∧
      responses t.trace = responses s.trace ++ [⟨c, .framingError, none⟩] ∧
      transportRequests t.trace = transportRequests s.trace) ∧
    ∀ b0 b1 b2 : Byte, ∃ t v, exec (.recvDone (.ok [b0, b1, b2])) s = .next t ∧
      codecDecode [b0, b1, b2] = .value v ∧ v = b1 ++ b2.extractLsb' 6 2 ∧
      t.block = { s.block with life := .ready, cs := some ⟨v, true⟩, pending := .idle } ∧
      responses t.trace = responses s.trace ++ [⟨c, .ok, none⟩] ∧
      transportRequests t.trace = transportRequests s.trace

/-- R242: after a failed attach the block is in its reset state, and one response has been delivered. -/
def Obligations.FailedAttachReturnsTheBlockToReset : Prop :=
  ∀ (s : State) (c : CallerId) (r : RecvResult), s.Running → s.block.WellFormed →
    s.block.pending = .attachPending c → (∀ b0 b1 b2, r ≠ .ok [b0, b1, b2]) →
    ∃ t status, exec (.recvDone r) s = .next t ∧ t.block = BlockState.reset ∧ status ≠ .ok ∧
      responses t.trace = responses s.trace ++ [⟨c, status, none⟩]

/-- R143: GET answers the cached value and writes nothing while Ready, whatever is pending; outside Ready it
faults. -/
def Obligations.GetAnswersTheCacheOrFaults : Prop :=
  ∀ (s : State) (arg : Int) (c : CallerId), s.Running →
    (s.block.life ≠ .ready →
      exec (.get arg c) s = .next { s with block := { s.block with fault := some .notReady } }) ∧
    ∀ cs, s.block.life = .ready → s.block.cs = some cs →
      ∃ x : Int, x = (cs.cachedValue.toNat : Int) ∧ 0 ≤ x ∧ x ≤ 1023 ∧
        exec (.get arg c) s = .next { s with trace := s.trace ++ [.responded ⟨c, .ok, some x⟩] }

/-- R144, R90: SET checks Ready, then that nothing is pending, then the range, and sends the encoded frame of an
argument in range. -/
def Obligations.SetChecksThenSendsTheEncodedValue : Prop :=
  ∀ (s : State) (arg : Int) (c : CallerId), s.Running →
    (s.block.life ≠ .ready →
      exec (.set arg c) s = .next { s with block := { s.block with fault := some .notReady } }) ∧
    (s.block.life = .ready ∧ s.block.pending ≠ .idle →
      exec (.set arg c) s = .next { s with block := { s.block with fault := some .concurrentSet } }) ∧
    (s.block.life = .ready ∧ s.block.pending = .idle ∧ (arg < 0 ∨ arg > 1023) →
      exec (.set arg c) s = .next { s with trace := s.trace ++ [.responded ⟨c, .rangeError, none⟩] }) ∧
    (s.block.life = .ready ∧ s.block.pending = .idle ∧ 0 ≤ arg ∧ arg ≤ 1023 →
      ∃ v : Value, (v.toNat : Int) = arg ∧ exec (.set arg c) s =
        .next { s with block := { s.block with pending := .setPending c v (codecEncode v) },
                       trace := s.trace ++ [.sent (codecEncode v)] })

/-- R145, R55, R61: SEND_DONE while a SET is pending. A count of 2 commits the value, clears the flag and leaves the
value in the chip; an error, a negative count or another count leaves the cache. One response, no transport
request. -/
def Obligations.SendCompletionCommitsOrFails : Prop :=
  ∀ (s : State) (c : CallerId) (v : Value), s.Running → s.block.pending = .setPending c v (codecEncode v) →
    (∀ cs, s.block.cs = some cs → ∃ t, exec (.sendDone (.ok 2)) s = .next t ∧
      t.block = { s.block with cs := some ⟨v, false⟩, pending := .idle } ∧ t.chip = v ∧
      responses t.trace = responses s.trace ++ [⟨c, .ok, none⟩] ∧
      transportRequests t.trace = transportRequests s.trace) ∧
    (∀ e, ∃ t, exec (.sendDone (.err e)) s = .next t ∧
      t.block = { s.block with pending := .idle } ∧
      responses t.trace = responses s.trace ++ [⟨c, .transportError (.reported e), none⟩] ∧
      transportRequests t.trace = transportRequests s.trace) ∧
    (∀ n : Int, n < 0 → ∃ t, exec (.sendDone (.ok n)) s = .next t ∧
      t.block = { s.block with pending := .idle } ∧
      responses t.trace = responses s.trace ++ [⟨c, .transportError (.negativeCount n), none⟩] ∧
      transportRequests t.trace = transportRequests s.trace) ∧
    ∀ n : Int, 0 ≤ n → n ≠ 2 → ∃ t, exec (.sendDone (.ok n)) s = .next t ∧
      t.block = { s.block with pending := .idle } ∧
      responses t.trace = responses s.trace ++ [⟨c, .shortWriteError, none⟩] ∧
      transportRequests t.trace = transportRequests s.trace

/-- R62: a send that completes with anything but a count of 2 makes the chip register a draw. The draw is the next
free value of the model (its form is the model's choice, log 3); nothing is said of which code it is. -/
def Obligations.FailedWriteLeavesTheChipADraw : Prop :=
  ∀ (s : State) (c : CallerId) (v : Value) (f : Frame2) (r : SendResult),
    s.Running → s.block.pending = .setPending c v f → r ≠ .ok 2 →
    ∃ t, exec (.sendDone r) s = .next t ∧ t.chip = Config.freeCode s.draws ∧ t.draws = s.draws + 1

/-- R146, R243: DETACH destroys the Channel, so the block is in its reset state and the chip keeps its value;
outside Ready, or while a SET is pending, it faults. -/
def Obligations.DetachDestroysTheChannelOrFaults : Prop :=
  ∀ (s : State) (arg : Int) (c : CallerId), s.Running →
    (s.block.life ≠ .ready →
      exec (.detach arg c) s = .next { s with block := { s.block with fault := some .notReady } }) ∧
    (s.block.life = .ready ∧ s.block.pending ≠ .idle →
      exec (.detach arg c) s = .next { s with block := { s.block with fault := some .detachBusy } }) ∧
    (s.block.life = .ready ∧ s.block.pending = .idle →
      exec (.detach arg c) s =
        .next { s with block := BlockState.reset, trace := s.trace ++ [.responded ⟨c, .ok, none⟩] })

/-- R110 as the row FAST_WRITE: ENCODE answers the frame and writes nothing (that the answer stands in the event
history is the model's choice, log 14). -/
def Obligations.FastWriteAnswersTheEncodedFrame : Prop :=
  ∀ (s : State) (v : Value), s.Running →
    exec (.fastWrite v) s =
      .next { s with trace := s.trace ++ [.encoded (0#4 ++ v.extractLsb' 6 4, v.extractLsb' 0 6 ++ 0#2)] }

/-- R112, R113 as the row READ_BACK: DECODE answers the value of 3 bytes, FramingError for any other length, and
writes nothing (that the answer stands in the event history is the model's choice, log 14). -/
def Obligations.ReadBackAnswersTheDecodedValue : Prop :=
  ∀ s : State, s.Running →
    (∀ b0 b1 b2 : Byte, exec (.readBack [b0, b1, b2]) s =
      .next { s with trace := s.trace ++ [.decoded (.value (b1 ++ b2.extractLsb' 6 2))] }) ∧
    ∀ frame : List Byte, frame.length ≠ 3 →
      exec (.readBack frame) s = .next { s with trace := s.trace ++ [.decoded .framingError] }

/-! ## Frames -/

/-- What a host operation leaves alone (R31, and nothing of the environment). -/
def Obligations.HostOperationFrame : Prop :=
  ∀ (i : Instr) (s t : State), exec i s = .next t →
    match i with
    | .attach _ _ =>
      t.block.life = s.block.life ∧ t.block.cs = s.block.cs ∧ t.block.refused = s.block.refused ∧
      t.chip = s.chip ∧ t.draws = s.draws ∧ t.inbox = s.inbox ∧
      (t.block.fault = s.block.fault ∨ t.block.pending = s.block.pending ∧ t.trace = s.trace)
    | .get _ _ =>
      t.block.life = s.block.life ∧ t.block.cs = s.block.cs ∧ t.block.pending = s.block.pending ∧
      t.block.refused = s.block.refused ∧ t.chip = s.chip ∧ t.draws = s.draws ∧ t.inbox = s.inbox ∧
      (t.block.fault = s.block.fault ∨ t.trace = s.trace)
    | .set _ _ =>
      t.block.life = s.block.life ∧ t.block.cs = s.block.cs ∧ t.block.refused = s.block.refused ∧
      t.chip = s.chip ∧ t.draws = s.draws ∧ t.inbox = s.inbox ∧
      (t.block.fault = s.block.fault ∨ t.block.pending = s.block.pending ∧ t.trace = s.trace)
    | .detach _ _ =>
      t.block.pending = s.block.pending ∧ t.block.refused = s.block.refused ∧
      t.chip = s.chip ∧ t.draws = s.draws ∧ t.inbox = s.inbox ∧
      (t.block.fault = s.block.fault ∨
        t.block.life = s.block.life ∧ t.block.cs = s.block.cs ∧ t.trace = s.trace)
    | _ => True

/-- What a completion leaves alone (R31; that a receive leaves the chip is log 4). RECV_DONE writes the cache only on
3 bytes; SEND_DONE writes it only on a count of 2 and never the lifecycle. -/
def Obligations.CompletionFrame : Prop :=
  (∀ (r : RecvResult) (s t : State), exec (.recvDone r) s = .next t →
    t.chip = s.chip ∧ t.draws = s.draws ∧ t.inbox = s.inbox ∧
    t.block.fault = s.block.fault ∧ t.block.refused = s.block.refused ∧
    ((∀ b0 b1 b2, r ≠ .ok [b0, b1, b2]) → t.block.life = s.block.life ∧ t.block.cs = s.block.cs)) ∧
  ∀ (r : SendResult) (s t : State), exec (.sendDone r) s = .next t →
    t.block.life = s.block.life ∧ t.inbox = s.inbox ∧
    t.block.fault = s.block.fault ∧ t.block.refused = s.block.refused ∧
    (r = .ok 2 → t.draws = s.draws) ∧ (r ≠ .ok 2 → t.block.cs = s.block.cs)

/-- R119: the codec rows touch neither the block, nor the chip, nor the Transport, and answer nobody. -/
def Obligations.CodecFrame : Prop :=
  ∀ (i : Instr) (s t : State), (∃ v, i = .fastWrite v) ∨ (∃ frame, i = .readBack frame) → exec i s = .next t →
    t.block = s.block ∧ t.chip = s.chip ∧ t.draws = s.draws ∧ t.inbox = s.inbox ∧
    ∃ es, t.trace = s.trace ++ es ∧ transportRequests es = [] ∧ responses es = []

/-! ## Whole-machine rules -/

/-- R150: in a well-formed running block every host operation and codec row has a next state, and a completion has
one exactly when its request is pending; otherwise it has no move. -/
def Obligations.EveryRequestStepsAndCompletionsOnlyWhenPending : Prop :=
  ∀ s : State, s.Running → s.block.WellFormed →
    (∀ i : Instr, i.format ≠ .xportCpl → ∃ t, exec i s = .next t) ∧
    (∀ r, (∃ t, exec (.recvDone r) s = .next t) ↔ ∃ c, s.block.pending = .attachPending c) ∧
    ∀ r, (∃ t, exec (.sendDone r) s = .next t) ↔ ∃ c v f, s.block.pending = .setPending c v f

/-- R206: a step faults exactly for the listed causes, changes nothing but the mark, and no step is enabled
afterwards. -/
def Obligations.FaultsAreRaisedExactlyForTheirCauses : Prop :=
  ∀ (i : Instr) (s : State) (k : Fault), s.Running → s.block.WellFormed →
    ((∃ t, exec i s = .next t ∧ t.block.fault = some k) ↔
      match k with
      | .attachState => (∃ arg c, i = .attach arg c) ∧ (s.block.life = .ready ∨ s.block.pending ≠ .idle)
      | .notReady =>
        ((∃ arg c, i = .get arg c) ∨ (∃ arg c, i = .set arg c) ∨ (∃ arg c, i = .detach arg c)) ∧
        s.block.life ≠ .ready
      | .concurrentSet => (∃ arg c, i = .set arg c) ∧ ∃ c v f, s.block.pending = .setPending c v f
      | .detachBusy => (∃ arg c, i = .detach arg c) ∧ ∃ c v f, s.block.pending = .setPending c v f) ∧
    ∀ t, exec i s = .next t → t.block.fault = some k →
      t = { s with block := { s.block with fault := some k } } ∧ (∀ u, step t ≠ .next u) ∧ ∀ j u, exec j t ≠ .next u

/-- R140: the full transition set. Every step that raises no fault is a row of the table; the codec rows leave the
block alone. -/
def Obligations.TransitionsAreThoseOfTheTable : Prop :=
  ∀ (i : Instr) (s t : State), s.block.WellFormed → exec i s = .next t → t.block.fault = none →
    match i with
    | .attach _ c =>
      s.block.life = .uninitialized ∧ s.block.pending = .idle ∧
      t.block.life = .uninitialized ∧ t.block.pending = .attachPending c
    | .recvDone r =>
      s.block.life = .uninitialized ∧ (∃ c, s.block.pending = .attachPending c) ∧ t.block.pending = .idle ∧
      (t.block.life = .ready ↔ ∃ b0 b1 b2, r = .ok [b0, b1, b2])
    | .get _ _ =>
      s.block.life = .ready ∧ (s.block.pending = .idle ∨ ∃ c v f, s.block.pending = .setPending c v f) ∧
      t.block = s.block
    | .set arg c =>
      s.block.life = .ready ∧ s.block.pending = .idle ∧ t.block.life = .ready ∧
      if arg < 0 ∨ arg > 1023 then t.block.pending = .idle
      else ∃ v f, t.block.pending = .setPending c v f
    | .sendDone _ =>
      s.block.life = .ready ∧ (∃ c v f, s.block.pending = .setPending c v f) ∧
      t.block.life = .ready ∧ t.block.pending = .idle
    | .detach _ _ =>
      s.block.life = .ready ∧ s.block.pending = .idle ∧
      t.block.life = .uninitialized ∧ t.block.pending = .idle
    | .fastWrite _ => t.block = s.block
    | .readBack _ => t.block = s.block

/-- R200: every host operation, and every completion that ends one, delivers exactly one response to the caller that
issued it; R14: a step makes at most one transport request. -/
def Obligations.EveryOperationIsAnsweredExactlyOnce : Prop :=
  ∀ (i : Instr) (s t : State), exec i s = .next t → t.block.fault = none →
    ∃ es, t.trace = s.trace ++ es ∧ (transportRequests es).length ≤ 1 ∧
      match i with
      | .attach _ c => responses es = [] ∧ t.block.pending = .attachPending c
      | .get _ c => ∃ x, responses es = [⟨c, .ok, some x⟩]
      | .set _ c =>
        (responses es = [⟨c, .rangeError, none⟩] ∧ t.block.pending = s.block.pending) ∨
        (responses es = [] ∧ ∃ v f, t.block.pending = .setPending c v f)
      | .detach _ c => responses es = [⟨c, .ok, none⟩]
      | .recvDone _ =>
        ∃ c status, s.block.pending = .attachPending c ∧ responses es = [⟨c, status, none⟩] ∧
          t.block.pending = .idle
      | .sendDone _ =>
        ∃ c v f status, s.block.pending = .setPending c v f ∧ responses es = [⟨c, status, none⟩] ∧
          t.block.pending = .idle
      | .fastWrite _ => responses es = []
      | .readBack _ => responses es = []

/-- R149: a step that answers an error leaves the ChannelState as it was, and a RangeError comes with no transport
request. -/
def Obligations.ErrorResponsesLeaveTheCacheUntouched : Prop :=
  ∀ (i : Instr) (s t : State) (es : List Obs) (r : Response),
    exec i s = .next t → t.trace = s.trace ++ es → r ∈ responses es → r.status ≠ .ok →
    t.block.cs = s.block.cs ∧ (r.status = .rangeError → transportRequests es = [])

/-- R81 (and R53): only SET sends, only for an argument in range, and what it sends is the encoded frame, whose padding
is zero. -/
def Obligations.OnlySetSendsAndOnlyEncodedFrames : Prop :=
  ∀ (i : Instr) (s t : State) (es : List Obs) (f : Frame2),
    exec i s = .next t → t.trace = s.trace ++ es → f ∈ sentFrames es →
    (∃ (v : Value) (c : CallerId), i = .set v.toNat c ∧ f = codecEncode v) ∧
    sentFrames es = [f] ∧ f.1.extractLsb' 4 4 = 0#4 ∧ f.2.extractLsb' 0 2 = 0#2

/-- R65: no step issues a transport request while one is pending, and one that issues a request leaves it
pending. -/
def Obligations.TransportRequestsAreSerialized : Prop :=
  ∀ (i : Instr) (s t : State) (es : List Obs),
    exec i s = .next t → t.trace = s.trace ++ es → transportRequests es ≠ [] →
    s.block.pending = .idle ∧ t.block.pending ≠ .idle ∧ (transportRequests es).length = 1

/-- R66: a GET that steps before a pending SET's completion answers the old value, one that steps after it answers
the new one; both orders are runs. -/
def Obligations.RacingGetAnswersOldOrNewValue : Prop :=
  ∀ (s : State) (c g : CallerId) (v : Value) (f : Frame2) (cs : ChannelState) (arg : Int),
    s.Running → s.block.life = .ready → s.block.cs = some cs → s.block.pending = .setPending c v f →
    (∃ t u, exec (.get arg g) s = .next t ∧ exec (.sendDone (.ok 2)) t = .next u ∧
      responses t.trace = responses s.trace ++ [⟨g, .ok, some (cs.cachedValue.toNat : Int)⟩]) ∧
    (∃ t u, exec (.sendDone (.ok 2)) s = .next t ∧ exec (.get arg g) t = .next u ∧
      responses u.trace = responses t.trace ++ [⟨g, .ok, some (v.toNat : Int)⟩])

/-- R147: setting the same value twice, each send confirmed, sends two identical frames, and GET answers the
value. -/
def Obligations.RepeatedSetSendsTwoIdenticalFrames : Prop :=
  ∀ (s : State) (v : Value) (c g : CallerId) (cs : ChannelState) (arg : Int),
    s.Running → s.block.life = .ready → s.block.cs = some cs → s.block.pending = .idle →
    ∃ s1 s2 s3 s4 s5, exec (.set v.toNat c) s = .next s1 ∧ exec (.sendDone (.ok 2)) s1 = .next s2 ∧
      exec (.set v.toNat c) s2 = .next s3 ∧ exec (.sendDone (.ok 2)) s3 = .next s4 ∧
      exec (.get arg g) s4 = .next s5 ∧
      sentFrames s5.trace = sentFrames s.trace ++ [codecEncode v, codecEncode v] ∧
      s5.trace = s4.trace ++ [.responded ⟨g, .ok, some (v.toNat : Int)⟩]

/-- No step but a failed write parts the cache from the chip register, where the environment's read-back carries the
chip register (the chip-side half of R30, under R63's assumption). -/
def Obligations.CacheAgreesWithTheChipUnlessAWriteFails : Prop :=
  ∀ (i : Instr) (s t : State), s.InSync → exec i s = .next t →
    (∀ r, i = .recvDone r → ReadBackHonest r s) → (∀ r, i = .sendDone r → r = .ok 2) → t.InSync

/-- The OPEN types of R9 are never examined: renaming callers and transport errors commutes with every step, so
their carrier in the model does not matter (log 1). -/
def Obligations.CallersAndTransportErrorsAreNeverExamined : Prop :=
  ∀ (ρ : Relabel) (s : State),
    (∀ i, exec (ρ.instr i) (ρ.state s) = ρ.outcome (exec i s)) ∧ step (ρ.state s) = ρ.outcome (step s)

/-! ## Invariants -/

/-- R29: every step keeps the block well-formed. -/
def Obligations.StepKeepsTheBlockWellFormed : Prop :=
  ∀ s t : State, s.block.WellFormed → step s = .next t → t.block.WellFormed

/-- R30: every step from a well-formed state keeps the relationship between the cache and what the wire has shown:
the cached value is the one most recently confirmed written, or the attach-time read-back while none has been. -/
def Obligations.StepKeepsTheCacheRelationship : Prop :=
  ∀ s t : State, s.block.WellFormed → s.Relationship → step s = .next t → t.Relationship

/-- Reset meets both invariants. -/
def Obligations.ResetMeetsTheInvariants : Prop :=
  State.reset.block.WellFormed ∧ State.reset.Relationship

/-- R148, R29, R30: every reachable state, whatever the environment presents and in whatever order, is well-formed and its
cache is what the wire last established. -/
def Obligations.ReachableStatesMeetTheInvariants : Prop :=
  ∀ s : State, Reachable s → s.block.WellFormed ∧ s.Relationship

/-- R69: in a reachable Ready block a GET answers the value the wire last established, by an attach or a write that was
confirmed, so never one whose SET failed. -/
def Obligations.ReachableGetAnswersTheLastEstablishedValue : Prop :=
  ∀ (s : State) (arg : Int) (c : CallerId), Reachable s → s.Running → s.block.life = .ready →
    ∃ cs, (wireView s.trace).latest = some cs ∧
      exec (.get arg c) s =
        .next { s with trace := s.trace ++ [.responded ⟨c, .ok, some (cs.cachedValue.toNat : Int)⟩] }
end

