-- ==== Sys2Proof/Laws/Codec.lean ====
section
/-! SUPPORT. The codec functions on the forms the machine gives them. -/

namespace Sys2Proof.Machine

@[simp] theorem codecDecode_three (b0 b1 b2 : Byte) :
    codecDecode [b0, b1, b2] = .value ((b1.setWidth 10 <<< 2) ||| (b2 >>> 6).setWidth 10) := rfl

/-- A decode gives a value only on three bytes. -/
theorem codecDecode_eq_value {bytes : List Byte} {v : Value} (h : codecDecode bytes = .value v) :
    ∃ b0 b1 b2, bytes = [b0, b1, b2] := by
  unfold codecDecode at h
  split at h
  · exact ⟨_, _, _, rfl⟩
  · cases h

/-- The value fields of the frame ENCODE makes hold the value (30_encoding.md R80). -/
@[simp] theorem fastWriteValue_codecEncode (v : Value) : fastWriteValue (codecEncode v) = v := by
  apply BitVec.eq_of_getLsbD_eq
  intro i hi
  simp only [fastWriteValue, codecEncode, Config.writeAlignShift, BitVec.getLsbD_append,
    BitVec.getLsbD_extractLsb', BitVec.getLsbD_setWidth, BitVec.getLsbD_shiftLeft]
  interval_cases i <;> simp

theorem fastWritePaddingZero_iff {f : Frame2} :
    fastWritePaddingZero f = true ↔ f.1.extractLsb' 4 4 = 0#4 ∧ f.2.extractLsb' 0 2 = 0#2 := by
  simp [fastWritePaddingZero]

end Sys2Proof.Machine
end

