-- ==== Sys2Proof/Laws/State.lean ====
section
/-! SUPPORT. What each update of State leaves in each field: one lemma per field per update, true by rfl. -/

namespace Sys2Proof.Machine

@[simp] theorem State.setLife_life (l : Life) (s : State) : (s.setLife l).block.life = l := rfl
@[simp] theorem State.setLife_cs (l : Life) (s : State) : (s.setLife l).block.cs = s.block.cs := rfl
@[simp] theorem State.setLife_pending (l : Life) (s : State) : (s.setLife l).block.pending = s.block.pending := rfl
@[simp] theorem State.setLife_fault (l : Life) (s : State) : (s.setLife l).block.fault = s.block.fault := rfl
@[simp] theorem State.setLife_refused (l : Life) (s : State) : (s.setLife l).block.refused = s.block.refused := rfl
@[simp] theorem State.setLife_chip (l : Life) (s : State) : (s.setLife l).chip = s.chip := rfl
@[simp] theorem State.setLife_trace (l : Life) (s : State) : (s.setLife l).trace = s.trace := rfl
@[simp] theorem State.setLife_inbox (l : Life) (s : State) : (s.setLife l).inbox = s.inbox := rfl
@[simp] theorem State.setLife_draws (l : Life) (s : State) : (s.setLife l).draws = s.draws := rfl

@[simp] theorem State.setChannel_life (c : Option ChannelState) (s : State) : (s.setChannel c).block.life = s.block.life := rfl
@[simp] theorem State.setChannel_cs (c : Option ChannelState) (s : State) : (s.setChannel c).block.cs = c := rfl
@[simp] theorem State.setChannel_pending (c : Option ChannelState) (s : State) : (s.setChannel c).block.pending = s.block.pending := rfl
@[simp] theorem State.setChannel_fault (c : Option ChannelState) (s : State) : (s.setChannel c).block.fault = s.block.fault := rfl
@[simp] theorem State.setChannel_refused (c : Option ChannelState) (s : State) : (s.setChannel c).block.refused = s.block.refused := rfl
@[simp] theorem State.setChannel_chip (c : Option ChannelState) (s : State) : (s.setChannel c).chip = s.chip := rfl
@[simp] theorem State.setChannel_trace (c : Option ChannelState) (s : State) : (s.setChannel c).trace = s.trace := rfl
@[simp] theorem State.setChannel_inbox (c : Option ChannelState) (s : State) : (s.setChannel c).inbox = s.inbox := rfl
@[simp] theorem State.setChannel_draws (c : Option ChannelState) (s : State) : (s.setChannel c).draws = s.draws := rfl

@[simp] theorem State.setPending_life (p : Pending) (s : State) : (s.setPending p).block.life = s.block.life := rfl
@[simp] theorem State.setPending_cs (p : Pending) (s : State) : (s.setPending p).block.cs = s.block.cs := rfl
@[simp] theorem State.setPending_pending (p : Pending) (s : State) : (s.setPending p).block.pending = p := rfl
@[simp] theorem State.setPending_fault (p : Pending) (s : State) : (s.setPending p).block.fault = s.block.fault := rfl
@[simp] theorem State.setPending_refused (p : Pending) (s : State) : (s.setPending p).block.refused = s.block.refused := rfl
@[simp] theorem State.setPending_chip (p : Pending) (s : State) : (s.setPending p).chip = s.chip := rfl
@[simp] theorem State.setPending_trace (p : Pending) (s : State) : (s.setPending p).trace = s.trace := rfl
@[simp] theorem State.setPending_inbox (p : Pending) (s : State) : (s.setPending p).inbox = s.inbox := rfl
@[simp] theorem State.setPending_draws (p : Pending) (s : State) : (s.setPending p).draws = s.draws := rfl

@[simp] theorem State.markFault_life (k : Fault) (s : State) : (s.markFault k).block.life = s.block.life := rfl
@[simp] theorem State.markFault_cs (k : Fault) (s : State) : (s.markFault k).block.cs = s.block.cs := rfl
@[simp] theorem State.markFault_pending (k : Fault) (s : State) : (s.markFault k).block.pending = s.block.pending := rfl
@[simp] theorem State.markFault_fault (k : Fault) (s : State) : (s.markFault k).block.fault = some k := rfl
@[simp] theorem State.markFault_refused (k : Fault) (s : State) : (s.markFault k).block.refused = s.block.refused := rfl
@[simp] theorem State.markFault_chip (k : Fault) (s : State) : (s.markFault k).chip = s.chip := rfl
@[simp] theorem State.markFault_trace (k : Fault) (s : State) : (s.markFault k).trace = s.trace := rfl
@[simp] theorem State.markFault_inbox (k : Fault) (s : State) : (s.markFault k).inbox = s.inbox := rfl
@[simp] theorem State.markFault_draws (k : Fault) (s : State) : (s.markFault k).draws = s.draws := rfl

@[simp] theorem State.markRefused_life (s : State) : (s.markRefused).block.life = s.block.life := rfl
@[simp] theorem State.markRefused_cs (s : State) : (s.markRefused).block.cs = s.block.cs := rfl
@[simp] theorem State.markRefused_pending (s : State) : (s.markRefused).block.pending = s.block.pending := rfl
@[simp] theorem State.markRefused_fault (s : State) : (s.markRefused).block.fault = s.block.fault := rfl
@[simp] theorem State.markRefused_refused (s : State) : (s.markRefused).block.refused = true := rfl
@[simp] theorem State.markRefused_chip (s : State) : (s.markRefused).chip = s.chip := rfl
@[simp] theorem State.markRefused_trace (s : State) : (s.markRefused).trace = s.trace := rfl
@[simp] theorem State.markRefused_inbox (s : State) : (s.markRefused).inbox = s.inbox := rfl
@[simp] theorem State.markRefused_draws (s : State) : (s.markRefused).draws = s.draws := rfl

@[simp] theorem State.emit_block (e : Obs) (s : State) : (s.emit e).block = s.block := rfl
@[simp] theorem State.emit_chip (e : Obs) (s : State) : (s.emit e).chip = s.chip := rfl
@[simp] theorem State.emit_trace (e : Obs) (s : State) : (s.emit e).trace = s.trace ++ [e] := rfl
@[simp] theorem State.emit_inbox (e : Obs) (s : State) : (s.emit e).inbox = s.inbox := rfl
@[simp] theorem State.emit_draws (e : Obs) (s : State) : (s.emit e).draws = s.draws := rfl

@[simp] theorem State.setChip_block (v : Value) (s : State) : (s.setChip v).block = s.block := rfl
@[simp] theorem State.setChip_chip (v : Value) (s : State) : (s.setChip v).chip = v := rfl
@[simp] theorem State.setChip_trace (v : Value) (s : State) : (s.setChip v).trace = s.trace := rfl
@[simp] theorem State.setChip_inbox (v : Value) (s : State) : (s.setChip v).inbox = s.inbox := rfl
@[simp] theorem State.setChip_draws (v : Value) (s : State) : (s.setChip v).draws = s.draws := rfl

@[simp] theorem State.drawChip_block (s : State) : (s.drawChip).block = s.block := rfl
@[simp] theorem State.drawChip_chip (s : State) : (s.drawChip).chip = Config.freeCode s.draws := rfl
@[simp] theorem State.drawChip_trace (s : State) : (s.drawChip).trace = s.trace := rfl
@[simp] theorem State.drawChip_inbox (s : State) : (s.drawChip).inbox = s.inbox := rfl
@[simp] theorem State.drawChip_draws (s : State) : (s.drawChip).draws = s.draws + 1 := rfl

/-- The primitives of 00_scope.md R13 are entries of the event history and nothing else. -/
@[simp] theorem transportReceive_eq (s : State) : transportReceive s = s.emit (.receiveIssued 3) := rfl

@[simp] theorem transportSend_eq (f : Frame2) (s : State) : transportSend f s = s.emit (.sent f) := rfl

@[simp] theorem respond_eq (c : CallerId) (st : Status) (v : Option Int) (s : State) :
    respond c st v s = s.emit (.responded ⟨c, st, v⟩) := rfl

end Sys2Proof.Machine
end

