-- ==== Sys2Proof/Laws/Ops.lean ====
section
/-! SUPPORT. For each shared operation, once, everything it can do. -/

namespace Sys2Proof.Machine

/-- The guard answers a next state exactly when neither mark is set and the guarded action does. -/
theorem guarded_eq_next {act : State → Host.Outcome State Fault Refusal} {s t : State} :
    guarded act s = .next t ↔ s.Running ∧ act s = .next t := by
  unfold guarded State.Running
  cases s.block.fault with
  | some k => simp
  | none => cases s.block.refused <;> simp

theorem guarded_running {act : State → Host.Outcome State Fault Refusal} {s : State} (h : s.Running) :
    guarded act s = act s := by
  simp [guarded, h.1, h.2]

theorem raiseFault_eq_next {k : Fault} {s t : State} : raiseFault k s = .next t ↔ t = s.markFault k := by
  simp [raiseFault, eq_comm]

theorem refuseRequest_eq_next {s t : State} : refuseRequest s = .next t ↔ t = s.markRefused := by
  simp [refuseRequest, eq_comm]

theorem setOperand_eq_none {arg : Int} : setOperand arg = none ↔ arg < 0 ∨ arg > 1023 := by
  by_cases h : arg < 0 ∨ arg > 1023 <;> simp [setOperand, Config.valueMax, h]

theorem setOperand_eq_some {arg : Int} {v : Value} :
    setOperand arg = some v ↔ 0 ≤ arg ∧ arg ≤ 1023 ∧ BitVec.ofInt 10 arg = v := by
  unfold setOperand Config.valueMax
  split
  · constructor
    · simp
    · rintro ⟨h1, h2, -⟩; omega
  · simp only [Option.some.injEq]
    constructor
    · intro h; exact ⟨by omega, by omega, h⟩
    · exact fun h => h.2.2

/-- A receive completion succeeds exactly when its bytes decode. -/
theorem classifyRecv_eq_done {r : RecvResult} {v : Value} :
    classifyRecv r = .done v ↔ ∃ bytes, r = .ok bytes ∧ codecDecode bytes = .value v := by
  cases r with
  | err e => simp [classifyRecv]
  | ok bytes => cases h : codecDecode bytes <;> simp [classifyRecv, h]

/-- A send completion succeeds exactly when the count is 2. -/
theorem classifySend_eq_done {r : SendResult} : classifySend r = .done () ↔ r = .ok 2 := by
  cases r with
  | err e => simp [classifySend]
  | ok n =>
    by_cases hn : n < 0
    · simp [classifySend, hn]; omega
    · by_cases h2 : n = 2 <;> simp [classifySend, Config.writeFrameLen, hn, h2]

/-- A failed completion never has status OK. -/
theorem classifyRecv_failed_ne_ok {r : RecvResult} {st : Status} (h : classifyRecv r = .failed st) : st ≠ .ok := by
  cases r with
  | err e => rintro rfl; simp [classifyRecv] at h
  | ok bytes => rintro rfl; cases hd : codecDecode bytes <;> simp [classifyRecv, hd] at h

theorem classifySend_failed_ne_ok {r : SendResult} {st : Status} (h : classifySend r = .failed st) : st ≠ .ok := by
  cases r with
  | err e => rintro rfl; simp [classifySend] at h
  | ok n =>
    rintro rfl
    simp only [classifySend] at h
    split at h
    · simp at h
    · split at h <;> simp at h

theorem fetch_eq_some {s t : State} {r : Record} :
    fetch s = some (r, t) ↔ ∃ rest, s.inbox = r :: rest ∧ t = { s with inbox := rest } := by
  unfold fetch
  cases s.inbox with
  | nil => simp
  | cons x xs => simp [eq_comm]

theorem fetch_eq_none {s : State} : fetch s = none ↔ s.inbox = [] := by
  unfold fetch
  cases s.inbox <;> simp

/-- Waiting changes nothing, and only happens while something is pending. -/
theorem awaitRecord_eq_next {s t : State} : awaitRecord s = .next t ↔ s.block.pending ≠ .idle ∧ t = s := by
  unfold awaitRecord
  cases s.block.pending <;> simp [eq_comm]

/-- A rejected record leads on only if it is a reserved op, and then only the mark changes. -/
theorem rejectRecord_eq_next {e : DecodeError} {s t : State} :
    rejectRecord e s = .next t ↔ (∃ op, e = .reservedOp op) ∧ t = s.markRefused := by
  cases e <;> simp [rejectRecord, refuseRequest_eq_next]

/-- The end of an attach leads on in two ways. -/
@[simp] theorem finishAttach_failed (c : CallerId) (st : Status) (s : State) :
    finishAttach c (.failed st) s = s.emit (.responded ⟨c, st, none⟩) := rfl

@[simp] theorem finishAttach_done (c : CallerId) (v : Value) (s : State) :
    finishAttach c (.done v) s =
      ((s.setChannel (some ⟨v, true⟩)).setLife .ready).emit (.responded ⟨c, .ok, none⟩) := rfl

/-- The end of a SET leads on in two ways. -/
theorem finishSet_eq_next {c : CallerId} {v : Value} {o : Completed Unit} {s t : State} :
    finishSet c v o s = .next t ↔
      (∃ st, o = .failed st ∧ t = respond c st none s.drawChip) ∨
      (o = .done () ∧ ∃ cs, s.block.cs = some cs ∧
        t = respond c .ok none ((s.setChannel (some (channelAfterWrite cs v))).setChip v)) := by
  cases o with
  | failed st => simp [finishSet, eq_comm]
  | done u => cases h : s.block.cs <;> simp [finishSet, h, eq_comm]

end Sys2Proof.Machine
end

