-- ==== Sys2Proof/Laws/Exec.lean ====
section
/-! SUPPORT. For each meaning and for the step, once: if it answers a next state, which one and when. -/

namespace Sys2Proof.Machine

/-- ATTACH faults or issues its read-back (41_channel.md R141). -/
theorem execAttach_eq_next {c : CallerId} {s t : State} :
    execAttach c s = .next t ↔ s.Running ∧
      (((s.block.life = .ready ∨ s.block.pending ≠ .idle) ∧ t = s.markFault .attachState) ∨
       (¬(s.block.life = .ready ∨ s.block.pending ≠ .idle) ∧
          t = (s.emit (.receiveIssued 3)).setPending (.attachPending c))) := by
  rw [execAttach, guarded_eq_next, and_congr_right_iff]
  intro _
  split <;> simp_all [raiseFault, @eq_comm State _ t]

/-- GET faults or answers the cached value (R143). -/
theorem execGet_eq_next {c : CallerId} {s t : State} :
    execGet c s = .next t ↔ s.Running ∧
      ((s.block.life ≠ .ready ∧ t = s.markFault .notReady) ∨
       (s.block.life = .ready ∧ ∃ cs, s.block.cs = some cs ∧
          t = s.emit (.responded ⟨c, .ok, some (getResult cs.cachedValue)⟩))) := by
  rw [execGet, guarded_eq_next, and_congr_right_iff]
  intro _
  split
  · simp_all [raiseFault, @eq_comm State _ t]
  · cases h : s.block.cs <;> simp_all [@eq_comm State _ t]

/-- SET faults, answers RANGE_ERROR, or sends its frame (R144). -/
theorem execSet_eq_next {arg : Int} {c : CallerId} {s t : State} :
    execSet arg c s = .next t ↔ s.Running ∧
      ((s.block.life ≠ .ready ∧ t = s.markFault .notReady) ∨
       (s.block.life = .ready ∧ s.block.pending ≠ .idle ∧ t = s.markFault .concurrentSet) ∨
       (s.block.life = .ready ∧ s.block.pending = .idle ∧ setOperand arg = none ∧
          t = s.emit (.responded ⟨c, .rangeError, none⟩)) ∨
       (s.block.life = .ready ∧ s.block.pending = .idle ∧ ∃ v, setOperand arg = some v ∧
          t = (s.emit (.sent (codecEncode v))).setPending (.setPending c v (codecEncode v)))) := by
  rw [execSet, guarded_eq_next, and_congr_right_iff]
  intro _
  split
  · simp_all [raiseFault, @eq_comm State _ t]
  · split
    · simp_all [raiseFault, @eq_comm State _ t]
    · cases h : setOperand arg <;> simp_all [@eq_comm State _ t]

/-- DETACH faults or destroys the Channel (R146). -/
theorem execDetach_eq_next {c : CallerId} {s t : State} :
    execDetach c s = .next t ↔ s.Running ∧
      ((s.block.life ≠ .ready ∧ t = s.markFault .notReady) ∨
       (s.block.life = .ready ∧ s.block.pending ≠ .idle ∧ t = s.markFault .detachBusy) ∨
       (s.block.life = .ready ∧ s.block.pending = .idle ∧
          t = ((s.setChannel none).setLife .uninitialized).emit (.responded ⟨c, .ok, none⟩))) := by
  rw [execDetach, guarded_eq_next, and_congr_right_iff]
  intro _
  split
  · simp_all [raiseFault, @eq_comm State _ t]
  · split <;> simp_all [raiseFault, @eq_comm State _ t]

/-- RECV_DONE has a move only while an attach is pending (R142, R150). -/
theorem execRecvDone_eq_next {r : RecvResult} {s t : State} :
    execRecvDone r s = .next t ↔ s.Running ∧ ∃ c, s.block.pending = .attachPending c ∧
      t = finishAttach c (classifyRecv r) ((s.emit (.received r)).setPending .idle) := by
  rw [execRecvDone, guarded_eq_next, and_congr_right_iff]
  intro _
  cases h : s.block.pending <;> simp_all [@eq_comm State _ t]

/-- SEND_DONE has a move only while a SET is pending (R145, R150). -/
theorem execSendDone_eq_next {r : SendResult} {s t : State} :
    execSendDone r s = .next t ↔ s.Running ∧ ∃ c v f, s.block.pending = .setPending c v f ∧
      finishSet c v (classifySend r) ((s.emit (.sendCompleted r)).setPending .idle) = .next t := by
  rw [execSendDone, guarded_eq_next, and_congr_right_iff]
  intro _
  cases h : s.block.pending <;> simp_all

/-- FAST_WRITE answers ENCODE's frame (40_codec.md R110). -/
theorem execFastWrite_eq_next {v : Value} {s t : State} :
    execFastWrite v s = .next t ↔ s.Running ∧ t = s.emit (.encoded (codecEncode v)) := by
  rw [execFastWrite, guarded_eq_next, Host.Outcome.next.injEq, @eq_comm State _ t]

/-- READ_BACK answers DECODE's result (R112). -/
theorem execReadBack_eq_next {frame : List Byte} {s t : State} :
    execReadBack frame s = .next t ↔ s.Running ∧ t = s.emit (.decoded (codecDecode frame)) := by
  rw [execReadBack, guarded_eq_next, Host.Outcome.next.injEq, @eq_comm State _ t]

/-- Everything an instruction can append to the event history, with the state it leaves behind. -/
theorem exec_events {i : Instr} {s t : State} {es : List Obs} (h : exec i s = .next t)
    (he : t.trace = s.trace ++ es) :
    es = [] ∨
    (∃ c, es = [.receiveIssued 3] ∧ s.block.pending = .idle ∧ t.block.pending = .attachPending c) ∨
    (∃ a c v, i = .set a c ∧ setOperand a = some v ∧ es = [.sent (codecEncode v)] ∧ s.block.pending = .idle ∧
      t.block.pending = .setPending c v (codecEncode v)) ∨
    (∃ r, es = [.responded r] ∧ (r.status ≠ .ok → t.block.cs = s.block.cs)) ∨
    (∃ r, ((∃ x, es = [.received x, .responded r]) ∨ ∃ x, es = [.sendCompleted x, .responded r]) ∧
      r.status ≠ .rangeError ∧ (r.status ≠ .ok → t.block.cs = s.block.cs)) ∨
    (∃ f, es = [.encoded f]) ∨ ∃ r, es = [.decoded r] := by
  cases i <;> simp only [exec] at h
  case attach a c =>
    rcases (execAttach_eq_next.1 h).2 with ⟨_, rfl⟩ | ⟨h1, rfl⟩
    · exact .inl (by simpa using he)
    · push Not at h1
      exact .inr (.inl ⟨c, by simpa using he.symm, h1.2, rfl⟩)
  case get a c =>
    rcases (execGet_eq_next.1 h).2 with ⟨_, rfl⟩ | ⟨_, _, _, rfl⟩
    · exact .inl (by simpa using he)
    · exact .inr (.inr (.inr (.inl ⟨_, by simpa using he.symm, fun _ => rfl⟩)))
  case set a c =>
    rcases (execSet_eq_next.1 h).2 with ⟨_, rfl⟩ | ⟨_, _, rfl⟩ | ⟨_, _, _, rfl⟩ | ⟨_, hp, v, ho, rfl⟩
    · exact .inl (by simpa using he)
    · exact .inl (by simpa using he)
    · exact .inr (.inr (.inr (.inl ⟨_, by simpa using he.symm, fun _ => rfl⟩)))
    · exact .inr (.inr (.inl ⟨a, c, v, rfl, ho, by simpa using he.symm, hp, rfl⟩))
  case detach a c =>
    rcases (execDetach_eq_next.1 h).2 with ⟨_, rfl⟩ | ⟨_, _, rfl⟩ | ⟨_, _, rfl⟩
    · exact .inl (by simpa using he)
    · exact .inl (by simpa using he)
    · exact .inr (.inr (.inr (.inl ⟨_, by simpa using he.symm, by simp⟩)))
  case recvDone r =>
    obtain ⟨_, c, _, rfl⟩ := execRecvDone_eq_next.1 h
    refine .inr (.inr (.inr (.inr (.inl ?_))))
    cases hc : classifyRecv r with
    | failed st =>
      refine ⟨⟨c, st, none⟩, .inl ⟨r, by simpa [hc] using he.symm⟩, ?_, fun _ => rfl⟩
      rintro rfl
      cases r with
      | err e => simp [classifyRecv] at hc
      | ok b => cases hd : codecDecode b <;> simp [classifyRecv, hd] at hc
    | done v => exact ⟨⟨c, .ok, none⟩, .inl ⟨r, by simpa [hc] using he.symm⟩, by simp, by simp⟩
  case sendDone r =>
    obtain ⟨_, c, v, f, _, h⟩ := execSendDone_eq_next.1 h
    refine .inr (.inr (.inr (.inr (.inl ?_))))
    rcases finishSet_eq_next.1 h with ⟨st, hst, rfl⟩ | ⟨_, cs, _, rfl⟩
    · refine ⟨⟨c, st, none⟩, .inr ⟨r, by simpa using he.symm⟩, ?_, fun _ => rfl⟩
      rintro rfl
      cases r with
      | err e => simp [classifySend] at hst
      | ok n =>
        by_cases hn : n < 0
        · simp [classifySend, hn] at hst
        · by_cases h2 : n = 2 <;> simp [classifySend, Config.writeFrameLen, hn, h2] at hst
    · exact ⟨⟨c, .ok, none⟩, .inr ⟨r, by simpa using he.symm⟩, by simp, by simp⟩
  case fastWrite v =>
    obtain ⟨_, rfl⟩ := execFastWrite_eq_next.1 h
    exact .inr (.inr (.inr (.inr (.inr (.inl ⟨_, by simpa using he.symm⟩)))))
  case readBack frame =>
    obtain ⟨_, rfl⟩ := execReadBack_eq_next.1 h
    exact .inr (.inr (.inr (.inr (.inr (.inr ⟨_, by simpa using he.symm⟩)))))

/-- A step waits, runs the decoded instruction, or refuses a reserved op (60_exceptions.md R210, R207). -/
theorem step_eq_next {s t : State} :
    step s = .next t ↔ s.Running ∧
      ((s.inbox = [] ∧ s.block.pending ≠ .idle ∧ t = s) ∨
       ∃ r rest, s.inbox = r :: rest ∧
        ((∃ i, decode r = .ok i ∧ exec i { s with inbox := rest } = .next t) ∨
         ∃ op, decode r = .error (.reservedOp op) ∧ t = ({ s with inbox := rest } : State).markRefused)) := by
  rw [step, guarded_eq_next, and_congr_right_iff]
  intro _
  cases h : s.inbox with
  | nil => simp [fetch, h, awaitRecord_eq_next]
  | cons r rest =>
    cases hd : decode r <;> simp [fetch, h, handleRecord, hd, rejectRecord_eq_next]

end Sys2Proof.Machine
end

