-- ==== Sys2Proof/Laws/History.lean ====
section
/-! SUPPORT. The views of the event history, event by event. -/

namespace Sys2Proof.Machine

@[simp] theorem wireView_append (trace es : List Obs) :
    wireView (trace ++ es) = es.foldl WireView.observe (wireView trace) := by
  simp [wireView]

@[simp] theorem sentFrames_append (es fs : List Obs) : sentFrames (es ++ fs) = sentFrames es ++ sentFrames fs := by
  simp [sentFrames]

@[simp] theorem responses_append (es fs : List Obs) : responses (es ++ fs) = responses es ++ responses fs := by
  simp [responses]

@[simp] theorem transportRequests_append (es fs : List Obs) :
    transportRequests (es ++ fs) = transportRequests es ++ transportRequests fs := by
  simp [transportRequests]

end Sys2Proof.Machine
end

