-- ==== Sys2Proof/Laws/PerInstr.lean ====
section
/-! SUPPORT. Statements about every instruction, one lemma per constructor of Instr. -/

namespace Sys2Proof.Laws.EncodedFormat

/-- An instruction is encoded as a record of its row's format (30_encoding.md R96). -/
def Statement (i : Instr) : Prop := (encode i).format = i.format

theorem attach (arg : Int) (caller : CallerId) : Statement (.attach arg caller) := rfl

theorem get (arg : Int) (caller : CallerId) : Statement (.get arg caller) := rfl

theorem set (arg : Int) (caller : CallerId) : Statement (.set arg caller) := rfl

theorem detach (arg : Int) (caller : CallerId) : Statement (.detach arg caller) := rfl

theorem recvDone (result : RecvResult) : Statement (.recvDone result) := rfl

theorem sendDone (result : SendResult) : Statement (.sendDone result) := rfl

theorem fastWrite (value : Value) : Statement (.fastWrite value) := rfl

theorem readBack (frame : List Byte) : Statement (.readBack frame) := rfl

end Sys2Proof.Laws.EncodedFormat
end

