-- ==== Sys2Proof/Tests/Slice0.lean ====
section
/-! SUPPORT. The model's own tests. Expected results are taken from 95_test_vectors.md (S1 to S6, V-E, V-D, V-A, V-G,
V-S, V-X, V-R, P5) or worked out from the rule named. Then, for every obligation with hypotheses, a witness that
meets them. -/

namespace Sys2Proof.Tests

open Sys2Proof.Machine

/-! ## States and observations -/

/-- A state around a block, with the chip driving 32. -/
def around (b : BlockState) (trace : List Obs) (inbox : List Record) : State :=
  { block := b, chip := 32, trace := trace, inbox := inbox, draws := 1 }

def attachingBlock : BlockState := { BlockState.reset with pending := .attachPending 0 }

def readyBlock (v : Value) (flag : Bool) (p : Pending) : BlockState :=
  { life := .ready, cs := some ⟨v, flag⟩, pending := p, fault := none, refused := false }

/-- The history of an attach that read 32. -/
def attachTrace : List Obs :=
  [.receiveIssued 3, .received (.ok [0x00, 0x08, 0x00]), .responded ⟨0, .ok, none⟩]

def fresh : State := around BlockState.reset [] []

def attaching : State := around attachingBlock [.receiveIssued 3] []

/-- The start of the V-S vectors: Ready, Idle, cachedValue = 32, validAtCreation = true. -/
def ready32 : State := around (readyBlock 32 true .idle) attachTrace []

/-- A SET of 300 by caller 0 is pending. -/
def setting300 : State :=
  around (readyBlock 32 true (.setPending 0 300 (0x04, 0xB0))) (attachTrace ++ [.sent (0x04, 0xB0)]) []

def after : Host.Outcome State Fault Refusal → Option State
  | .next t => some t
  | .fault _ => none
  | .refused _ => none

def cacheAfter (o : Host.Outcome State Fault Refusal) : Option (Option ChannelState) :=
  (after o).map (·.block.cs)

/-- The events a step from `s` added. -/
def eventsAfter (s : State) (o : Host.Outcome State Fault Refusal) : Option (List Obs) :=
  (after o).map fun t => t.trace.drop s.trace.length

/-! ## Decoding and encoding: records written out from R87, R89, R80, R83 -/

theorem test_decode_attach : decode (.host ⟨0b000#3, 7, 1⟩) = .ok (.attach 7 1) := by decide

/-- V-R3: a GET whose arg is ignored. -/
theorem test_decode_get : decode (.host ⟨0b001#3, 999, 2⟩) = .ok (.get 999 2) := by decide

theorem test_decode_set : decode (.host ⟨0b010#3, -1, 0⟩) = .ok (.set (-1) 0) := by decide

theorem test_decode_detach : decode (.host ⟨0b011#3, 0, 0⟩) = .ok (.detach 0 0) := by decide

/-- V-R1, V-R2. -/
theorem test_decode_reserved :
    decode (.host ⟨0b100#3, 0, 0⟩) = .error (.reservedOp 4) ∧
    decode (.host ⟨0b111#3, 300, 0⟩) = .error (.reservedOp 7) := by decide

theorem test_decode_completions :
    decode (.xport ⟨0#1, .ok 2, .err 5⟩) = .ok (.recvDone (.err 5)) ∧
    decode (.xport ⟨1#1, .ok 2, .err 5⟩) = .ok (.sendDone (.ok 2)) := by decide

/-- V-E10, V-E11: 0000 0100 1011 0000 and 0000 0101 0101 0100. -/
theorem test_decode_fastWrite :
    decode (.wireWrite [0b00000100, 0b10110000]) = .ok (.fastWrite 300) ∧
    decode (.wireWrite [0b00000101, 0b01010100]) = .ok (.fastWrite 341) := by decide

/-- R93: a nonzero padding bit, each end of each field; and the wrong lengths (R85). -/
theorem test_decode_refuses_other_write_frames :
    decode (.wireWrite [0x14, 0xB0]) = .error (.writeFramePadding (0x14, 0xB0)) ∧
    decode (.wireWrite [0x84, 0xB0]) = .error (.writeFramePadding (0x84, 0xB0)) ∧
    decode (.wireWrite [0x04, 0xB1]) = .error (.writeFramePadding (0x04, 0xB1)) ∧
    decode (.wireWrite [0x04, 0xB2]) = .error (.writeFramePadding (0x04, 0xB2)) ∧
    decode (.wireWrite [0x04]) = .error (.writeFrameLength 1) ∧
    decode (.wireWrite [0x04, 0xB0, 0x00]) = .error (.writeFrameLength 3) := by decide

theorem test_decode_readBack :
    decode (.wireRead [0b11000000, 0b01001011, 0b00000000]) = .ok (.readBack [0xC0, 0x4B, 0x00]) := by decide

/-- V-E14. -/
theorem test_encode_fastWrite : encode (.fastWrite 682) = .wireWrite [0x0A, 0xA8] := by decide

/-- The table numbers its bits with bit 0 the least significant of the 16-bit and 24-bit views (R82, R83). -/
theorem test_table_words :
    decodeTableWord 8 2 = some (.set 0 0) ∧ decodeTableWord 1 1 = some (.sendDone (.ok 0)) ∧
    decodeTableWord 16 0x0AF0 = some (.fastWrite 700) ∧
    decodeTableWord 24 0xA55540 = some (.readBack [0xA5, 0x55, 0x40]) ∧ decodeTableWord 32 0 = none := by decide

/-- The check of WellFormed: a frame of 3 bytes passes, ill-formed terms of 2 and 4 bytes do not. -/
theorem test_wf_checks_the_frame_length :
    Instr.wf (.readBack [0x00, 0x80, 0x00]) = true ∧ Instr.wf (.readBack [0x00, 0x80]) = false ∧
    Instr.wf (.readBack [0x00, 0x80, 0x00, 0x00]) = false := by decide

/-! ## The codec -/

/-- S1, V-E5, V-E6, V-E10, V-E17. -/
theorem test_codecEncode :
    codecEncode 0 = (0x00, 0x00) ∧ codecEncode 1023 = (0x0F, 0xFC) ∧ codecEncode 512 = (0x08, 0x00) ∧
    codecEncode 63 = (0x00, 0xFC) ∧ codecEncode 64 = (0x01, 0x00) ∧ codecEncode 300 = (0x04, 0xB0) ∧
    codecEncode 1022 = (0x0F, 0xF8) := by decide

/-- V-D2, V-D4 (the corrected S5), V-D3, V-D6, V-D7, V-D11, V-D15, V-D18, V-D20. -/
theorem test_codecDecode :
    codecDecode [0xFF, 0xFF, 0xFF] = .value 1023 ∧ codecDecode [0x00, 0x08, 0x00] = .value 32 ∧
    codecDecode [0x00, 0x80, 0x00] = .value 512 ∧ codecDecode [0x00, 0x4B, 0x3F] = .value 300 ∧
    codecDecode [0x00, 0x00, 0x40] = .value 1 ∧ codecDecode [0x00, 0x01, 0x00] = .value 4 ∧
    codecDecode [0x00, 0xAA, 0x80] = .value 682 ∧ codecDecode [0x00, 0x80] = .framingError ∧
    codecDecode [0x00, 0x80, 0x00, 0x00] = .framingError := by decide

/-- R200: the codes. -/
theorem test_status_codes :
    [Status.ok, .rangeError, .transportError (.reported 0), .shortWriteError, .framingError].map Status.code
      = [0, 1, 2, 3, 4] := by decide

/-! ## One step -/

/-- V-A1. -/
theorem test_attach :
    eventsAfter fresh (exec (.attach 9 4) fresh) = some [.receiveIssued 3] ∧
    (after (exec (.attach 9 4) fresh)).map (·.block.pending) = some (.attachPending 4) := by decide

/-- V-A7, V-A8. -/
theorem test_attach_faults :
    (after (exec (.attach 0 0) ready32)).map (·.block.fault) = some (some .attachState) ∧
    (after (exec (.attach 0 0) attaching)).map (·.block.fault) = some (some .attachState) := by decide

/-- V-A2, V-A3. -/
theorem test_recvDone :
    cacheAfter (exec (.recvDone (.ok [0x00, 0x80, 0x00])) attaching) = some (some ⟨512, true⟩) ∧
    cacheAfter (exec (.recvDone (.ok [0xFF, 0x00, 0x3F])) attaching) = some (some ⟨0, true⟩) := by decide

/-- V-A4, V-A5. -/
theorem test_recvDone_failures :
    (after (exec (.recvDone (.err 6)) attaching)).map (·.block) = some BlockState.reset ∧
    (after (exec (.recvDone (.ok [0x00, 0x80])) attaching)).map (fun t => responses t.trace)
      = some [⟨0, .framingError, none⟩] := by decide

/-- V-G4: the old value while a SET is pending. -/
theorem test_get :
    eventsAfter setting300 (exec (.get 999 2) setting300) = some [.responded ⟨2, .ok, some 32⟩] := by decide

/-- V-G5, V-G6. -/
theorem test_get_faults :
    (after (exec (.get 0 0) fresh)).map (·.block.fault) = some (some .notReady) ∧
    (after (exec (.get 0 0) attaching)).map (·.block.fault) = some (some .notReady) := by decide

/-- S3; V-S4 to V-S7: no truncation and no wrap. -/
theorem test_set :
    eventsAfter ready32 (exec (.set 300 0) ready32) = some [.sent (0x04, 0xB0)] ∧
    [-1, 1024, 4294967296, -4294966273].map (fun a => eventsAfter ready32 (exec (.set a 0) ready32))
      = List.replicate 4 (some [.responded ⟨0, .rangeError, none⟩]) := by decide

/-- V-S14: checked before the range. -/
theorem test_set_faults :
    (after (exec (.set 5000 0) setting300)).map (·.block.fault) = some (some .concurrentSet) := by decide

/-- S3, S4, V-S8 to V-S12. -/
theorem test_sendDone :
    cacheAfter (exec (.sendDone (.ok 2)) setting300) = some (some ⟨300, false⟩) ∧
    [SendResult.ok 1, .ok 0, .ok 3, .ok (-5), .err 8].map (fun r => cacheAfter (exec (.sendDone r) setting300))
      = List.replicate 5 (some (some ⟨32, true⟩)) := by decide

/-- V-S8 to V-S12: the responses. -/
theorem test_sendDone_responses :
    [SendResult.ok 1, .ok 0, .ok 3, .ok (-5), .err 8].map
      (fun r => (after (exec (.sendDone r) setting300)).map fun t => (responses t.trace).tail)
      = [some [⟨0, .shortWriteError, none⟩], some [⟨0, .shortWriteError, none⟩], some [⟨0, .shortWriteError, none⟩],
         some [⟨0, .transportError (.negativeCount (-5)), none⟩],
         some [⟨0, .transportError (.reported 8), none⟩]] := by decide

/-- V-X1. -/
theorem test_detach :
    (after (exec (.detach 0 3) ready32)).map (·.block) = some BlockState.reset ∧
    eventsAfter ready32 (exec (.detach 0 3) ready32) = some [.responded ⟨3, .ok, none⟩] := by decide

/-- V-X2, V-X3. -/
theorem test_detach_faults :
    (after (exec (.detach 0 0) setting300)).map (·.block.fault) = some (some .detachBusy) ∧
    (after (exec (.detach 0 0) fresh)).map (·.block.fault) = some (some .notReady) := by decide

/-- V-E15. -/
theorem test_fastWrite :
    eventsAfter fresh (exec (.fastWrite 700) fresh) = some [.encoded (0x0A, 0xF0)] := by decide

/-- V-D5, V-D21. -/
theorem test_readBack :
    eventsAfter fresh (exec (.readBack [0xC0, 0x4B, 0x00]) fresh) = some [.decoded (.value 300)] ∧
    eventsAfter fresh (exec (.readBack [0x5A]) fresh) = some [.decoded .framingError] := by decide

/-- V-A9: a completion with no request has no move. -/
theorem test_no_move : step { fresh with inbox := [.xport ⟨0#1, .ok 0, .ok [0, 0, 0]⟩] } = .refused .noMove := rfl

/-- P5a: the mark, and then no step. -/
theorem test_step_after_fault :
    (after (step { fresh with inbox := [.host ⟨1#3, 0, 0⟩, .host ⟨0#3, 0, 0⟩] })).map (·.block.fault)
      = some (some .notReady) ∧
    step { fresh with block := { BlockState.reset with fault := some .notReady } } = .fault .notReady :=
  ⟨by decide, rfl⟩

/-- P5b: op 101 is refused. -/
theorem test_step_reserved :
    (after (step { ready32 with inbox := [.host ⟨0b101#3, 0, 0⟩] })).map (·.block.refused) = some true := by decide

/-- A write frame with a nonzero padding bit names no instruction. -/
theorem test_step_refuses_padding : step { fresh with inbox := [.wireWrite [0x40, 0x00]] } = .refused .notAWriteFrame :=
  rfl

/-- A table word presented at reset is the next instruction run. -/
theorem test_withFetchWord : step (State.reset.withFetchWord 3 0b000) = exec (.attach 0 0) State.reset := rfl

/-! ## Witnesses: for each obligation, values that meet its hypotheses, clause by clause -/

theorem fresh_wf : BlockState.reset.WellFormed := by
  refine ⟨by decide, ?_, ?_, ?_⟩
  · intro c h; cases h
  · intro c v f h; cases h
  · intro c v f h; cases h

theorem attaching_wf : attachingBlock.WellFormed := by
  refine ⟨by decide, ?_, ?_, ?_⟩
  · intro c _; decide
  · intro c v f h; cases h
  · intro c v f h; cases h

theorem ready32_wf : ready32.block.WellFormed := by
  refine ⟨by decide, ?_, ?_, ?_⟩
  · intro c h; cases h
  · intro c v f h; cases h
  · intro c v f h; cases h

theorem setting300_wf : setting300.block.WellFormed := by
  refine ⟨by decide, ?_, ?_, ?_⟩
  · intro c h; cases h
  · intro c v f _; decide
  · intro c v f h; cases h; decide

theorem setting300_relationship : setting300.Relationship := by
  refine ⟨fun _ => by decide, ?_⟩
  intro c v f h
  cases h
  decide

theorem all_running : fresh.Running ∧ attaching.Running ∧ ready32.Running ∧ setting300.Running := by decide

theorem witness_WriteFrameViewIsTheValueShiftedByTwo :
    (0x04B0#16 : BitVec 16) = (codecEncode 300).1 ++ (codecEncode 300).2 := by decide

theorem witness_EncodeIsInjectiveOntoThePaddedFrames :
    codecEncode 1023 = codecEncode 1023 ∧ (codecEncode 1023).1.extractLsb' 4 4 = 0#4 ∧
    (codecEncode 1023).2.extractLsb' 0 2 = 0#2 := by decide

theorem witness_DecodeRejectsEveryOtherLength :
    ([] : List Byte).length ≠ 3 ∧ ([0, 0x80] : List Byte).length ≠ 3 ∧ ([0, 0x80, 0, 0] : List Byte).length ≠ 3 ∧
    ([0, 0x80, 0] : List Byte).length = 3 := by decide

theorem witness_DecodeIgnoresExactlyFourteenBits :
    (0x40#8).extractLsb' 6 2 = (0x7F#8).extractLsb' 6 2 ∧
    codecDecode [0x00, 0x4B, 0x3F] = .value 300 ∧
    ([0#8, (300#10).extractLsb' 2 8, (300#10).extractLsb' 0 2 ++ 5#6] : List Byte) =
      [0#8, (300#10).extractLsb' 2 8, (300#10).extractLsb' 0 2 ++ 5#6] := by decide

theorem witness_LayoutsDifferByAShiftOfFour :
    (0x0FFC#16 : BitVec 16) = (codecEncode 1023).1 ++ (codecEncode 1023).2 := by decide

theorem witness_EncodeOfDecodeIsTheRecord :
    decode (.host ⟨3#3, 8, 1⟩) = .ok (.detach 8 1) ∧
    decode (.xport ⟨0#1, .err 1, .err 2⟩) = .ok (.recvDone (.err 2)) ∧
    decode (.xport ⟨1#1, .err 1, .err 2⟩) = .ok (.sendDone (.err 1)) ∧
    decode (.wireWrite [0x0F, 0xFC]) = .ok (.fastWrite 1023) ∧
    decode (.wireRead [1, 2]) = .ok (.readBack [1, 2]) := by decide

theorem witness_OperationCodesNameTheirOperations : 4 ≤ (4#3).toNat ∧ 4 ≤ (7#3).toNat := by decide

theorem witness_StepRunsTheDecodedInstruction :
    ∃ s : State, s.Running ∧ s.inbox = [.host ⟨0#3, 0, 0⟩] ∧ decode (.host ⟨0#3, 0, 0⟩) = .ok (.attach 0 0) :=
  ⟨{ fresh with inbox := [.host ⟨0#3, 0, 0⟩] }, by decide⟩

theorem witness_ReservedOperationIsRefused :
    (∃ s : State, s.Running ∧ s.inbox = [.host ⟨4#3, 0, 0⟩] ∧ 4 ≤ (4#3).toNat) ∧
    ∃ s : State, s.Running ∧ s.inbox = [.host ⟨7#3, 300, 0⟩] ∧ 4 ≤ (7#3).toNat :=
  ⟨⟨{ fresh with inbox := [.host ⟨4#3, 0, 0⟩] }, by decide⟩,
   ⟨{ ready32 with inbox := [.host ⟨7#3, 300, 0⟩] }, by decide⟩⟩

theorem witness_MarkedBlockTakesNoStep :
    (fresh.markFault .detachBusy).block.fault ≠ none ∧ fresh.markRefused.block.refused = true := by decide

theorem witness_NothingPresentedIsAHangOrTheEnd :
    (setting300.Running ∧ setting300.inbox = [] ∧ setting300.block.pending ≠ .idle) ∧
    ready32.Running ∧ ready32.inbox = [] ∧ ready32.block.pending = .idle := by decide

theorem witness_StepAppendsHistoryAndConsumesInOrder :
    ∃ s t, step s = .next t ∧ s.inbox ≠ [] :=
  ⟨{ ready32 with inbox := [.host ⟨1#3, 0, 0⟩] }, _, rfl, by decide⟩

theorem witness_AttachIssuesTheReadBackOrFaults :
    (ready32.Running ∧ ready32.block.life = .ready) ∧
    (attaching.Running ∧ attaching.block.pending ≠ .idle) ∧
    fresh.Running ∧ fresh.block.life = .uninitialized ∧ fresh.block.pending = .idle := by decide

theorem witness_ReceiveCompletionFinishesTheAttach :
    attaching.Running ∧ attaching.block.pending = .attachPending 0 ∧
    ([] : List Byte).length ≠ 3 ∧ ([1, 2, 3, 4] : List Byte).length ≠ 3 := by decide

theorem witness_FailedAttachReturnsTheBlockToReset :
    attaching.Running ∧ attaching.block.WellFormed ∧ attaching.block.pending = .attachPending 0 ∧
    (∀ b0 b1 b2, RecvResult.err 1 ≠ .ok [b0, b1, b2]) ∧ ∀ b0 b1 b2, RecvResult.ok [0, 0x80] ≠ .ok [b0, b1, b2] :=
  ⟨by decide, attaching_wf, by decide, by simp, by simp⟩

theorem witness_GetAnswersTheCacheOrFaults :
    (fresh.Running ∧ fresh.block.life ≠ .ready) ∧
    (around (readyBlock 1023 false .idle) [] []).Running ∧ (readyBlock 1023 false .idle).life = .ready ∧
    (readyBlock 1023 false .idle).cs = some ⟨1023, false⟩ := by decide

theorem witness_SetChecksThenSendsTheEncodedValue :
    (fresh.Running ∧ fresh.block.life ≠ .ready) ∧
    (setting300.Running ∧ setting300.block.life = .ready ∧ setting300.block.pending ≠ .idle) ∧
    (ready32.Running ∧ ready32.block.life = .ready ∧ ready32.block.pending = .idle) ∧
    ((-1 : Int) < 0 ∧ (1024 : Int) > 1023) ∧
    ((0 : Int) ≤ 0 ∧ (0 : Int) ≤ 1023 ∧ (0 : Int) ≤ 1023 ∧ (1023 : Int) ≤ 1023) := by decide

theorem witness_SendCompletionCommitsOrFails :
    setting300.Running ∧ setting300.block.pending = .setPending 0 300 (codecEncode 300) ∧
    setting300.block.cs = some ⟨32, true⟩ ∧
    (-1 : Int) < 0 ∧ ((0 : Int) ≤ 0 ∧ (0 : Int) ≠ 2) ∧ ((0 : Int) ≤ 1 ∧ (1 : Int) ≠ 2) ∧
    (0 : Int) ≤ 3 ∧ (3 : Int) ≠ 2 := by decide

theorem witness_FailedWriteLeavesTheChipADraw :
    setting300.Running ∧ setting300.block.pending = .setPending 0 300 (0x04, 0xB0) ∧ SendResult.ok 1 ≠ .ok 2 ∧
    SendResult.err 0 ≠ .ok 2 := by decide

theorem witness_DetachDestroysTheChannelOrFaults :
    (fresh.Running ∧ fresh.block.life ≠ .ready) ∧
    (setting300.Running ∧ setting300.block.life = .ready ∧ setting300.block.pending ≠ .idle) ∧
    ready32.Running ∧ ready32.block.life = .ready ∧ ready32.block.pending = .idle := by decide

theorem witness_FastWriteAnswersTheEncodedFrame : fresh.Running := by decide

theorem witness_ReadBackAnswersTheDecodedValue :
    fresh.Running ∧ ([0x5A] : List Byte).length ≠ 3 ∧ ([1, 2, 3, 4] : List Byte).length ≠ 3 := by decide

theorem witness_HostOperationFrame :
    (∃ t, exec (.attach 0 0) fresh = .next t) ∧ (∃ t, exec (.get 0 0) ready32 = .next t) ∧
    (∃ t, exec (.set 5 0) ready32 = .next t) ∧ ∃ t, exec (.detach 0 0) ready32 = .next t :=
  ⟨⟨_, rfl⟩, ⟨_, rfl⟩, ⟨_, rfl⟩, ⟨_, rfl⟩⟩

theorem witness_CompletionFrame :
    (∃ t, exec (.recvDone (.ok [0, 0x80, 0])) attaching = .next t) ∧
    (∃ t, exec (.recvDone (.err 1)) attaching = .next t ∧ ∀ b0 b1 b2, RecvResult.err 1 ≠ .ok [b0, b1, b2]) ∧
    (∃ t, exec (.sendDone (.ok 2)) setting300 = .next t) ∧
    ∃ t, exec (.sendDone (.ok 1)) setting300 = .next t ∧ SendResult.ok 1 ≠ .ok 2 :=
  ⟨⟨_, rfl⟩, ⟨_, rfl, by simp⟩, ⟨_, rfl⟩, ⟨_, rfl, by decide⟩⟩

theorem witness_CodecFrame :
    (∃ t, exec (.fastWrite 1023) setting300 = .next t) ∧ ∃ t, exec (.readBack [1]) attaching = .next t :=
  ⟨⟨_, rfl⟩, ⟨_, rfl⟩⟩

theorem witness_EveryRequestStepsAndCompletionsOnlyWhenPending :
    setting300.Running ∧ setting300.block.WellFormed ∧ Instr.format (.get 0 0) ≠ .xportCpl :=
  ⟨by decide, setting300_wf, by decide⟩

theorem witness_FaultsAreRaisedExactlyForTheirCauses :
    (∃ t, exec (.attach 0 0) ready32 = .next t ∧ t.block.fault = some .attachState) ∧
    (∃ t, exec (.get 0 0) fresh = .next t ∧ t.block.fault = some .notReady) ∧
    (∃ t, exec (.set 6 0) setting300 = .next t ∧ t.block.fault = some .concurrentSet) ∧
    (∃ t, exec (.detach 0 0) setting300 = .next t ∧ t.block.fault = some .detachBusy) ∧
    fresh.block.WellFormed ∧ ready32.block.WellFormed ∧ setting300.block.WellFormed :=
  ⟨⟨_, rfl, rfl⟩, ⟨_, rfl, rfl⟩, ⟨_, rfl, rfl⟩, ⟨_, rfl, rfl⟩, fresh_wf, ready32_wf, setting300_wf⟩

/-- Every row of R140's table is reached without a fault. -/
theorem witness_TransitionsAreThoseOfTheTable :
    (∃ t, exec (.attach 0 0) fresh = .next t ∧ t.block.fault = none) ∧
    (∃ t, exec (.recvDone (.ok [0, 0x80, 0])) attaching = .next t ∧ t.block.fault = none) ∧
    (∃ t, exec (.recvDone (.ok [0, 0x80])) attaching = .next t ∧ t.block.fault = none) ∧
    (∃ t, exec (.get 0 0) setting300 = .next t ∧ t.block.fault = none) ∧
    (∃ t, exec (.set 1024 0) ready32 = .next t ∧ t.block.fault = none) ∧
    (∃ t, exec (.set 1023 0) ready32 = .next t ∧ t.block.fault = none) ∧
    (∃ t, exec (.sendDone (.err 1)) setting300 = .next t ∧ t.block.fault = none) ∧
    (∃ t, exec (.detach 0 0) ready32 = .next t ∧ t.block.fault = none) ∧
    (∃ t, exec (.fastWrite 0) ready32 = .next t ∧ t.block.fault = none) ∧
    (∃ t, exec (.readBack []) ready32 = .next t ∧ t.block.fault = none) ∧
    fresh.block.WellFormed ∧ attaching.block.WellFormed ∧ ready32.block.WellFormed ∧ setting300.block.WellFormed :=
  ⟨⟨_, rfl, rfl⟩, ⟨_, rfl, rfl⟩, ⟨_, rfl, rfl⟩, ⟨_, rfl, rfl⟩, ⟨_, rfl, rfl⟩, ⟨_, rfl, rfl⟩, ⟨_, rfl, rfl⟩,
   ⟨_, rfl, rfl⟩, ⟨_, rfl, rfl⟩, ⟨_, rfl, rfl⟩, fresh_wf, attaching_wf, ready32_wf, setting300_wf⟩

/-- The steps of the table's witness meet these hypotheses too; a SET answered at once and one left pending. -/
theorem witness_EveryOperationIsAnsweredExactlyOnce :
    (∃ t, exec (.set (-1) 0) ready32 = .next t ∧ t.block.fault = none) ∧
    (∃ t, exec (.set 0 0) ready32 = .next t ∧ t.block.fault = none) ∧
    ∃ t, exec (.sendDone (.ok 2)) setting300 = .next t ∧ t.block.fault = none :=
  ⟨⟨_, rfl, rfl⟩, ⟨_, rfl, rfl⟩, ⟨_, rfl, rfl⟩⟩

/-- One witness for each error status. -/
theorem witness_ErrorResponsesLeaveTheCacheUntouched :
    (∃ t es, exec (.set 1024 0) ready32 = .next t ∧ t.trace = ready32.trace ++ es ∧
      ⟨0, .rangeError, none⟩ ∈ responses es) ∧
    (∃ t es, exec (.recvDone (.ok [])) attaching = .next t ∧ t.trace = attaching.trace ++ es ∧
      ⟨0, .framingError, none⟩ ∈ responses es) ∧
    (∃ t es, exec (.sendDone (.ok 1)) setting300 = .next t ∧ t.trace = setting300.trace ++ es ∧
      ⟨0, .shortWriteError, none⟩ ∈ responses es) ∧
    ∃ t es, exec (.sendDone (.err 7)) setting300 = .next t ∧ t.trace = setting300.trace ++ es ∧
      ⟨0, .transportError (.reported 7), none⟩ ∈ responses es :=
  ⟨⟨_, [.responded ⟨0, .rangeError, none⟩], rfl, rfl, by decide⟩,
   ⟨_, [.received (.ok []), .responded ⟨0, .framingError, none⟩], rfl, rfl, by decide⟩,
   ⟨_, [.sendCompleted (.ok 1), .responded ⟨0, .shortWriteError, none⟩], rfl, rfl, by decide⟩,
   ⟨_, [.sendCompleted (.err 7), .responded ⟨0, .transportError (.reported 7), none⟩], rfl, rfl, by decide⟩⟩

theorem witness_OnlySetSendsAndOnlyEncodedFrames :
    ∃ t es, exec (.set 1023 0) ready32 = .next t ∧ t.trace = ready32.trace ++ es ∧ (0x0F, 0xFC) ∈ sentFrames es :=
  ⟨_, [.sent (0x0F, 0xFC)], rfl, rfl, by decide⟩

theorem witness_TransportRequestsAreSerialized :
    (∃ t es, exec (.set 0 0) ready32 = .next t ∧ t.trace = ready32.trace ++ es ∧ transportRequests es ≠ []) ∧
    ∃ t es, exec (.attach 0 0) fresh = .next t ∧ t.trace = fresh.trace ++ es ∧ transportRequests es ≠ [] :=
  ⟨⟨_, [.sent (0x00, 0x00)], rfl, rfl, by decide⟩, ⟨_, [.receiveIssued 3], rfl, rfl, by decide⟩⟩

theorem witness_RacingGetAnswersOldOrNewValue :
    setting300.Running ∧ setting300.block.life = .ready ∧ setting300.block.cs = some ⟨32, true⟩ ∧
    setting300.block.pending = .setPending 0 300 (0x04, 0xB0) := by decide

theorem witness_RepeatedSetSendsTwoIdenticalFrames :
    ready32.Running ∧ ready32.block.life = .ready ∧ ready32.block.cs = some ⟨32, true⟩ ∧
    ready32.block.pending = .idle := by decide

theorem witness_CacheAgreesWithTheChipUnlessAWriteFails :
    (attaching.InSync ∧ (∃ t, exec (.recvDone (.ok [9, 0x08, 0x00])) attaching = .next t) ∧
      ReadBackHonest (.ok [9, 0x08, 0x00]) attaching) ∧
    setting300.InSync ∧ ∃ t, exec (.sendDone (.ok 2)) setting300 = .next t := by
  refine ⟨⟨?_, ⟨_, rfl⟩, ?_⟩, ?_, ⟨_, rfl⟩⟩
  · intro h; cases h
  · intro b0 b1 b2 h; cases h; decide
  · intro _; exact ⟨⟨32, true⟩, by decide⟩

theorem witness_StepKeepsTheBlockWellFormed :
    ∃ s t : State, s.block.WellFormed ∧ step s = .next t ∧ t ≠ s :=
  ⟨{ setting300 with inbox := [.xport ⟨1#1, .ok 2, .ok []⟩] }, _, setting300_wf, rfl, by decide⟩

theorem witness_StepKeepsTheCacheRelationship :
    ∃ s t : State, s.block.WellFormed ∧ s.Relationship ∧ step s = .next t ∧ t.block.cs = some ⟨300, false⟩ :=
  ⟨{ setting300 with inbox := [.xport ⟨1#1, .ok 2, .ok []⟩] }, _, setting300_wf,
   ⟨setting300_relationship.1, setting300_relationship.2⟩, rfl, by decide⟩

/-- From reset, the environment presents an ATTACH and its completion, and the block steps twice. -/
theorem witness_ReachableStatesMeetTheInvariants :
    ∃ s, Reachable s ∧ s.Running ∧ s.block.life = .ready ∧ s.block.cs = some ⟨512, true⟩ :=
  ⟨_, .stepped (.stepped (.presented (.xport ⟨0#1, .ok 0, .ok [0x00, 0x80, 0x00]⟩)
        (.presented (.host ⟨0#3, 0, 0⟩) .atReset)) rfl) rfl, by decide, by decide, by decide⟩

theorem witness_ReachableGetAnswersTheLastEstablishedValue :
    ∃ s, Reachable s ∧ s.Running ∧ s.block.life = .ready :=
  witness_ReachableStatesMeetTheInvariants.imp fun _ h => ⟨h.1, h.2.1, h.2.2.1⟩

end Sys2Proof.Tests
end

section
/-! SUPPORT. Renamings of the OPEN types `CallerId` and `TErr` (00_scope.md R9) commute with everything the block
computes, layer by layer: the state's updates, the completion's classification, the guard, each meaning, the decoder,
the step. -/

namespace Sys2Proof.Machine

/-! ## The renaming, field by field and update by update -/

namespace Relabel

variable (ρ : Relabel) (s : State)

@[simp] theorem state_life : (ρ.state s).block.life = s.block.life := rfl
@[simp] theorem state_cs : (ρ.state s).block.cs = s.block.cs := rfl
@[simp] theorem state_pending : (ρ.state s).block.pending = ρ.pending s.block.pending := rfl
@[simp] theorem state_fault : (ρ.state s).block.fault = s.block.fault := rfl
@[simp] theorem state_refused : (ρ.state s).block.refused = s.block.refused := rfl
@[simp] theorem state_inbox : (ρ.state s).inbox = s.inbox.map ρ.record := rfl

@[simp] theorem state_emit (e : Obs) : ρ.state (s.emit e) = (ρ.state s).emit (ρ.obs e) := by
  simp [Relabel.state, State.emit]

@[simp] theorem state_setLife (l : Life) : ρ.state (s.setLife l) = (ρ.state s).setLife l := rfl
@[simp] theorem state_setChannel (c : Option ChannelState) :
    ρ.state (s.setChannel c) = (ρ.state s).setChannel c := rfl
@[simp] theorem state_setPending (p : Pending) :
    ρ.state (s.setPending p) = (ρ.state s).setPending (ρ.pending p) := rfl
@[simp] theorem state_markFault (k : Fault) : ρ.state (s.markFault k) = (ρ.state s).markFault k := rfl
@[simp] theorem state_markRefused : ρ.state s.markRefused = (ρ.state s).markRefused := rfl
@[simp] theorem state_setChip (v : Value) : ρ.state (s.setChip v) = (ρ.state s).setChip v := rfl
@[simp] theorem state_drawChip : ρ.state s.drawChip = (ρ.state s).drawChip := rfl

@[simp] theorem pending_idle : ρ.pending .idle = .idle := rfl
@[simp] theorem pending_attachPending (c : CallerId) :
    ρ.pending (.attachPending c) = .attachPending (ρ.caller c) := rfl
@[simp] theorem pending_setPending (c : CallerId) (v : Value) (f : Frame2) :
    ρ.pending (.setPending c v f) = .setPending (ρ.caller c) v f := rfl

/-- Whether something is pending does not depend on who asked for it: the one question the guards of 41_channel.md
put to `pending`. -/
@[simp] theorem pending_eq_idle {p : Pending} : ρ.pending p = .idle ↔ p = .idle := by
  cases p <;> simp

@[simp] theorem status_ok : ρ.status .ok = .ok := rfl
@[simp] theorem status_rangeError : ρ.status .rangeError = .rangeError := rfl
@[simp] theorem status_framingError : ρ.status .framingError = .framingError := rfl

@[simp] theorem obs_receiveIssued (n : Nat) : ρ.obs (.receiveIssued n) = .receiveIssued n := rfl
@[simp] theorem obs_sent (f : Frame2) : ρ.obs (.sent f) = .sent f := rfl
@[simp] theorem obs_received (r : RecvResult) : ρ.obs (.received r) = .received (ρ.recv r) := rfl
@[simp] theorem obs_sendCompleted (r : SendResult) : ρ.obs (.sendCompleted r) = .sendCompleted (ρ.send r) := rfl
@[simp] theorem obs_responded (c : CallerId) (st : Status) (v : Option Int) :
    ρ.obs (.responded ⟨c, st, v⟩) = .responded ⟨ρ.caller c, ρ.status st, v⟩ := rfl
@[simp] theorem obs_encoded (f : Frame2) : ρ.obs (.encoded f) = .encoded f := rfl
@[simp] theorem obs_decoded (r : CodecResult) : ρ.obs (.decoded r) = .decoded r := rfl

@[simp] theorem outcome_next : ρ.outcome (.next s) = .next (ρ.state s) := rfl
@[simp] theorem outcome_fault (k : Fault) : ρ.outcome (.fault k) = .fault k := rfl
@[simp] theorem outcome_refused (r : Refusal) : ρ.outcome (.refused r) = .refused r := rfl

@[simp] theorem outcome_raiseFault (k : Fault) : ρ.outcome (raiseFault k s) = raiseFault k (ρ.state s) := rfl

/-- The renaming of a classified completion: only a failure's status can carry a `TErr` (60_exceptions.md R200). -/
def completed {α : Type} : Completed α → Completed α
  | .done a => .done a
  | .failed st => .failed (ρ.status st)

@[simp] theorem completed_done {α : Type} (a : α) : ρ.completed (.done a) = .done a := rfl
@[simp] theorem completed_failed {α : Type} (st : Status) :
    ρ.completed (.failed st : Completed α) = .failed (ρ.status st) := rfl

end Relabel

variable (ρ : Relabel) (s : State)

/-! ## The shared operations -/

/-- A receive completion is classified without looking into the transport's error (R142, R209). -/
theorem classifyRecv_relabel (r : RecvResult) : classifyRecv (ρ.recv r) = ρ.completed (classifyRecv r) := by
  cases r with
  | err e => rfl
  | ok bytes => cases h : codecDecode bytes <;> simp [Relabel.recv, classifyRecv, h]

/-- A send completion is classified by its count alone (R145). -/
theorem classifySend_relabel (r : SendResult) : classifySend (ρ.send r) = ρ.completed (classifySend r) := by
  cases r with
  | err e => rfl
  | ok n =>
    simp only [Relabel.send, classifySend]
    split_ifs <;> rfl

theorem finishAttach_relabel (c : CallerId) (o : Completed Value) :
    finishAttach (ρ.caller c) (ρ.completed o) (ρ.state s) = ρ.state (finishAttach c o s) := by
  cases o <;> simp

theorem finishSet_relabel (c : CallerId) (v : Value) (o : Completed Unit) :
    finishSet (ρ.caller c) v (ρ.completed o) (ρ.state s) = ρ.outcome (finishSet c v o s) := by
  cases o with
  | failed st => simp [finishSet]
  | done u => cases h : s.block.cs <;> simp [finishSet, h]

/-- The common guard (10_state.md R28) looks at the two marks only, so a guarded action commutes with a renaming when
the action does. -/
theorem guarded_relabel {act act' : State → Host.Outcome State Fault Refusal}
    (h : act' (ρ.state s) = ρ.outcome (act s)) : guarded act' (ρ.state s) = ρ.outcome (guarded act s) := by
  cases hf : s.block.fault with
  | some k => simp [guarded, hf]
  | none => cases hr : s.block.refused <;> simp [guarded, hf, hr, h]

/-! ## The meanings -/

theorem execAttach_relabel (c : CallerId) :
    execAttach (ρ.caller c) (ρ.state s) = ρ.outcome (execAttach c s) := by
  apply guarded_relabel
  by_cases hbusy : s.block.life = .ready ∨ s.block.pending ≠ .idle
  · simp [hbusy]
  · simp [hbusy]

theorem execGet_relabel (c : CallerId) : execGet (ρ.caller c) (ρ.state s) = ρ.outcome (execGet c s) := by
  apply guarded_relabel
  by_cases hl : s.block.life = .ready
  · cases hc : s.block.cs <;> simp [hl, hc]
  · simp [hl]

theorem execSet_relabel (arg : Int) (c : CallerId) :
    execSet arg (ρ.caller c) (ρ.state s) = ρ.outcome (execSet arg c s) := by
  apply guarded_relabel
  by_cases hl : s.block.life = .ready
  · by_cases hp : s.block.pending = .idle
    · cases ho : setOperand arg <;> simp [hl, hp]
    · simp [hl, hp]
  · simp [hl]

theorem execDetach_relabel (c : CallerId) :
    execDetach (ρ.caller c) (ρ.state s) = ρ.outcome (execDetach c s) := by
  apply guarded_relabel
  by_cases hl : s.block.life = .ready
  · by_cases hp : s.block.pending = .idle <;> simp [hl, hp]
  · simp [hl]

theorem execRecvDone_relabel (r : RecvResult) :
    execRecvDone (ρ.recv r) (ρ.state s) = ρ.outcome (execRecvDone r s) := by
  apply guarded_relabel
  rw [Relabel.state_pending]
  cases s.block.pending with
  | idle => rfl
  | setPending c v f => rfl
  | attachPending c => simp [classifyRecv_relabel, ← finishAttach_relabel]

theorem execSendDone_relabel (r : SendResult) :
    execSendDone (ρ.send r) (ρ.state s) = ρ.outcome (execSendDone r s) := by
  apply guarded_relabel
  rw [Relabel.state_pending]
  cases s.block.pending with
  | idle => rfl
  | attachPending c => rfl
  | setPending c v f => simp [classifySend_relabel, ← finishSet_relabel]

theorem execFastWrite_relabel (v : Value) : execFastWrite v (ρ.state s) = ρ.outcome (execFastWrite v s) := by
  apply guarded_relabel
  simp

theorem execReadBack_relabel (frame : List Byte) :
    execReadBack frame (ρ.state s) = ρ.outcome (execReadBack frame s) := by
  apply guarded_relabel
  simp

/-- Every instruction's meaning commutes with every renaming, one lemma per row of the opcode table. -/
theorem exec_relabel (i : Instr) : exec (ρ.instr i) (ρ.state s) = ρ.outcome (exec i s) := by
  cases i with
  | attach _ c => exact execAttach_relabel ρ s c
  | get _ c => exact execGet_relabel ρ s c
  | set arg c => exact execSet_relabel ρ s arg c
  | detach _ c => exact execDetach_relabel ρ s c
  | recvDone r => exact execRecvDone_relabel ρ s r
  | sendDone r => exact execSendDone_relabel ρ s r
  | fastWrite v => exact execFastWrite_relabel ρ s v
  | readBack frame => exact execReadBack_relabel ρ s frame

/-! ## The decoder and the step -/

theorem decodeHost_relabel (req : HostReq) :
    decodeHost { req with caller := ρ.caller req.caller } = (decodeHost req).map ρ.instr := by
  simp only [decodeHost]
  split <;> rfl

theorem decodeXport_relabel (cpl : XportCpl) :
    decodeXport { cpl with send := ρ.send cpl.send, recv := ρ.recv cpl.recv } = ρ.instr (decodeXport cpl) := by
  simp only [decodeXport]
  split <;> rfl

/-- The wire carries neither a caller nor a transport error. -/
theorem decodeWireWrite_relabel (bytes : List Byte) :
    (decodeWireWrite bytes).map ρ.instr = decodeWireWrite bytes := by
  unfold decodeWireWrite
  split
  · split_ifs <;> rfl
  · rfl

/-- Which instruction a record carries, and why it carries none, does not depend on the names in it. -/
theorem decode_relabel (r : Record) : decode (ρ.record r) = (decode r).map ρ.instr := by
  cases r with
  | host req => exact decodeHost_relabel ρ req
  | xport cpl => exact congrArg Except.ok (decodeXport_relabel ρ cpl)
  | wireWrite bytes => exact (decodeWireWrite_relabel ρ bytes).symm
  | wireRead bytes => rfl

theorem fetch_relabel : fetch (ρ.state s) = (fetch s).map (Prod.map ρ.record ρ.state) := by
  unfold fetch
  rw [Relabel.state_inbox]
  cases s.inbox <;> rfl

theorem awaitRecord_relabel : awaitRecord (ρ.state s) = ρ.outcome (awaitRecord s) := by
  unfold awaitRecord
  rw [Relabel.state_pending]
  cases s.block.pending <;> rfl

theorem rejectRecord_relabel (e : DecodeError) : rejectRecord e (ρ.state s) = ρ.outcome (rejectRecord e s) := by
  cases e <;> rfl

theorem handleRecord_relabel (r : Record) :
    handleRecord (ρ.record r) (ρ.state s) = ρ.outcome (handleRecord r s) := by
  unfold handleRecord
  rw [decode_relabel]
  cases decode r with
  | ok i => exact exec_relabel ρ s i
  | error e => exact rejectRecord_relabel ρ s e

/-- A step commutes with every renaming, whether it waits, runs an instruction or rejects a record. -/
theorem step_relabel : step (ρ.state s) = ρ.outcome (step s) := by
  apply guarded_relabel
  rw [fetch_relabel]
  cases fetch s with
  | none => exact awaitRecord_relabel ρ s
  | some taken => exact handleRecord_relabel ρ taken.2 taken.1

end Sys2Proof.Machine

/-- Settles O43: instruction by instruction (`exec_relabel`), then through the decoder and the inbox
(`step_relabel`). -/
theorem callersAndTransportErrorsAreNeverExamined : Obligations.CallersAndTransportErrorsAreNeverExamined := by
  intro ρ s
  exact ⟨Sys2Proof.Machine.exec_relabel ρ s, Sys2Proof.Machine.step_relabel ρ s⟩

end

section
/-! SUPPORT. The invariants of the state (10_state.md R29, R30), the frames of R31 and the guard of R28. First, what an
instruction can do, merged over the opcode table (`Effect`); then each invariant is kept effect by effect, and by
the step. -/

namespace Sys2Proof.Machine

/-! ## The common guard -/

/-- Every instruction's meaning stands under the common guard (R28). -/
theorem running_of_exec {i : Instr} {s t : State} (h : exec i s = .next t) : s.Running := by
  cases i with
  | attach _ c => exact (execAttach_eq_next.1 h).1
  | get _ c => exact (execGet_eq_next.1 h).1
  | set arg c => exact (execSet_eq_next.1 h).1
  | detach _ c => exact (execDetach_eq_next.1 h).1
  | recvDone r => exact (execRecvDone_eq_next.1 h).1
  | sendDone r => exact (execSendDone_eq_next.1 h).1
  | fastWrite v => exact (execFastWrite_eq_next.1 h).1
  | readBack frame => exact (execReadBack_eq_next.1 h).1

theorem not_running_of_marked {s : State} (h : s.block.fault ≠ none ∨ s.block.refused = true) : ¬ s.Running := by
  rintro ⟨hfault, hrefused⟩
  simp [hfault, hrefused] at h

/-! ## What an event tells the wire view -/

/-- An attach establishes the value it decoded, with the flag true. -/
theorem observe_received_of_done {r : RecvResult} {v : Value} (h : classifyRecv r = .done v) (w : WireView) :
    w.observe (.received r) = { w with latest := some ⟨v, true⟩ } := by
  obtain ⟨bytes, rfl, hv⟩ := classifyRecv_eq_done.1 h
  simp [WireView.observe, hv]

/-- A failed attach establishes nothing. -/
theorem observe_received_of_failed {r : RecvResult} {st : Status} (h : classifyRecv r = .failed st) (w : WireView) :
    w.observe (.received r) = w := by
  cases r with
  | err e => rfl
  | ok bytes => cases hd : codecDecode bytes <;> simp_all [WireView.observe, classifyRecv]

/-- A send that is not confirmed establishes nothing. -/
theorem observe_sendCompleted_of_ne {r : SendResult} (h : r ≠ .ok 2) (w : WireView) :
    w.observe (.sendCompleted r) = w := by
  cases r with
  | err e => rfl
  | ok n => exact if_neg fun hn => h (by rw [hn])

/-- A confirmed send establishes the value of the last frame sent, with the flag false. -/
theorem observe_sendCompleted_two (w : WireView) :
    w.observe (.sendCompleted (.ok 2)) = { w with latest := w.lastSent.map fun f => ⟨fastWriteValue f, false⟩ } :=
  rfl

@[simp] theorem observe_responded (r : Response) (w : WireView) : w.observe (.responded r) = w := rfl
@[simp] theorem observe_receiveIssued (n : Nat) (w : WireView) : w.observe (.receiveIssued n) = w := rfl
@[simp] theorem observe_sent (f : Frame2) (w : WireView) : w.observe (.sent f) = { w with lastSent := some f } := rfl

/-! ## What an instruction can do -/

/-- What an instruction can do to a state, with the part of its guard that the invariants rest on: the rows of
41_channel.md R140, the faults, and the answers that write nothing. -/
inductive Effect (s : State) : Instr → State → Prop where
  | faulted {i : Instr} (k : Fault) (hi : i.format = .hostReq) : Effect s i (s.markFault k)
  | answered {i : Instr} (e : Obs) (hi : i.format ≠ .xportCpl) (silent : ∀ w : WireView, w.observe e = w) :
      Effect s i (s.emit e)
  | attachIssued (arg : Int) (c : CallerId) (hl : s.block.life ≠ .ready) :
      Effect s (.attach arg c) ((s.emit (.receiveIssued 3)).setPending (.attachPending c))
  | attachFailed (r : RecvResult) (c : CallerId) (st : Status) (hr : classifyRecv r = .failed st) :
      Effect s (.recvDone r) (((s.emit (.received r)).setPending .idle).emit (.responded ⟨c, st, none⟩))
  | attached (r : RecvResult) (c : CallerId) (v : Value) (hr : classifyRecv r = .done v) :
      Effect s (.recvDone r)
        (((((s.emit (.received r)).setPending .idle).setChannel (some ⟨v, true⟩)).setLife .ready).emit
          (.responded ⟨c, .ok, none⟩))
  | setIssued (arg : Int) (c : CallerId) (v : Value) (hl : s.block.life = .ready) :
      Effect s (.set arg c)
        ((s.emit (.sent (codecEncode v))).setPending (.setPending c v (codecEncode v)))
  | setFailed (r : SendResult) (c : CallerId) (st : Status) (hr : r ≠ .ok 2) :
      Effect s (.sendDone r)
        (((s.emit (.sendCompleted r)).setPending .idle).drawChip.emit (.responded ⟨c, st, none⟩))
  | setConfirmed (c : CallerId) (v : Value) (f : Frame2) (hp : s.block.pending = .setPending c v f) :
      Effect s (.sendDone (.ok 2))
        (((((s.emit (.sendCompleted (.ok 2))).setPending .idle).setChannel (some ⟨v, false⟩)).setChip v).emit
          (.responded ⟨c, .ok, none⟩))
  | detached (arg : Int) (c : CallerId) (hp : s.block.pending = .idle) :
      Effect s (.detach arg c)
        (((s.setChannel none).setLife .uninitialized).emit (.responded ⟨c, .ok, none⟩))

theorem recvDone_effect {r : RecvResult} {s t : State} (h : execRecvDone r s = .next t) :
    Effect s (.recvDone r) t := by
  obtain ⟨-, c, -, rfl⟩ := execRecvDone_eq_next.1 h
  cases hr : classifyRecv r with
  | failed st => exact .attachFailed r c st hr
  | done v => exact .attached r c v hr

theorem sendDone_effect {r : SendResult} {s t : State} (h : execSendDone r s = .next t) :
    Effect s (.sendDone r) t := by
  obtain ⟨-, c, v, f, hp, h⟩ := execSendDone_eq_next.1 h
  rcases finishSet_eq_next.1 h with ⟨st, hst, rfl⟩ | ⟨hdone, -, -, rfl⟩
  · refine .setFailed r c st fun h2 => ?_
    simp [classifySend_eq_done.2 h2] at hst
  · obtain rfl := classifySend_eq_done.1 hdone
    exact .setConfirmed c v f hp

/-- Everything an instruction can do. -/
theorem exec_effect {i : Instr} {s t : State} (h : exec i s = .next t) : Effect s i t := by
  cases i with
  | attach arg c =>
    rcases (execAttach_eq_next.1 h).2 with ⟨-, rfl⟩ | ⟨hfree, rfl⟩
    · exact .faulted _ rfl
    · exact .attachIssued arg c fun hl => hfree (.inl hl)
  | get arg c =>
    rcases (execGet_eq_next.1 h).2 with ⟨-, rfl⟩ | ⟨-, cs, -, rfl⟩
    · exact .faulted _ rfl
    · exact .answered _ nofun (observe_responded _)
  | set arg c =>
    rcases (execSet_eq_next.1 h).2 with ⟨-, rfl⟩ | ⟨-, -, rfl⟩ | ⟨-, -, -, rfl⟩ | ⟨hl, -, v, -, rfl⟩
    · exact .faulted _ rfl
    · exact .faulted _ rfl
    · exact .answered _ nofun (observe_responded _)
    · exact .setIssued arg c v hl
  | detach arg c =>
    rcases (execDetach_eq_next.1 h).2 with ⟨-, rfl⟩ | ⟨-, -, rfl⟩ | ⟨-, hp, rfl⟩
    · exact .faulted _ rfl
    · exact .faulted _ rfl
    · exact .detached arg c hp
  | recvDone r => exact recvDone_effect h
  | sendDone r => exact sendDone_effect h
  | fastWrite v =>
    obtain ⟨-, rfl⟩ := execFastWrite_eq_next.1 h
    exact .answered _ nofun fun _ => rfl
  | readBack frame =>
    obtain ⟨-, rfl⟩ := execReadBack_eq_next.1 h
    exact .answered _ nofun fun _ => rfl

/-- What every instruction and the refusal of a reserved op keep, and what does not look at the inbox, the step
keeps. -/
theorem step_keeps {P : State → Prop} (inbox : ∀ {s : State} (rest : List Record), P s → P { s with inbox := rest })
    (mark : ∀ {s : State}, P s → P s.markRefused)
    (effect : ∀ {i : Instr} {s t : State}, P s → Effect s i t → P t)
    {s t : State} (hs : P s) (h : step s = .next t) : P t := by
  obtain ⟨-, ⟨-, -, rfl⟩ | ⟨r, rest, -, ⟨i, -, hexec⟩ | ⟨op, -, rfl⟩⟩⟩ := step_eq_next.1 h
  · exact hs
  · exact effect (inbox rest hs) (exec_effect hexec)
  · exact mark (inbox rest hs)

/-! ## The block stays well-formed (R29) -/

/-- With nothing pending, the first clause of R29 is all of it. -/
theorem wellFormed_of_idle {b : BlockState} (hp : b.pending = .idle) (hch : b.life = .ready ↔ b.cs ≠ none) :
    b.WellFormed where
  channel_iff_ready := hch
  attach_uninitialized _ h := nomatch hp.symm.trans h
  set_ready _ _ _ h := nomatch hp.symm.trans h
  set_frame _ _ _ h := nomatch hp.symm.trans h

/-- R29 does not look at the marks. -/
theorem BlockState.WellFormed.of_marks {b : BlockState} (h : b.WellFormed) (fault : Option Fault) (refused : Bool) :
    { b with fault := fault, refused := refused }.WellFormed :=
  ⟨h.channel_iff_ready, h.attach_uninitialized, h.set_ready, h.set_frame⟩

theorem effect_keeps_wellFormed {i : Instr} {s t : State} (hs : s.block.WellFormed) (h : Effect s i t) :
    t.block.WellFormed := by
  cases h with
  | faulted k _ => exact hs.of_marks (some k) s.block.refused
  | answered e _ _ => exact hs
  | attachIssued arg c hl =>
    have hun : s.block.life = .uninitialized := by cases hlife : s.block.life <;> simp_all
    exact ⟨hs.channel_iff_ready, fun _ _ => hun, nofun, nofun⟩
  | attachFailed r c st _ => exact wellFormed_of_idle rfl hs.channel_iff_ready
  | attached r c v _ => exact wellFormed_of_idle rfl (by simp)
  | setIssued arg c v hl =>
    refine ⟨hs.channel_iff_ready, nofun, fun _ _ _ _ => hl, fun _ _ _ hp => ?_⟩
    cases hp
    rfl
  | setFailed r c st _ => exact wellFormed_of_idle rfl hs.channel_iff_ready
  | setConfirmed c v f hp => exact wellFormed_of_idle rfl (by simp [hs.set_ready c v f hp])
  | detached arg c hp => exact wellFormed_of_idle hp (by simp)

/-! ## The cache is what the wire last established (R30) -/

/-- With nothing pending, the first clause is all of the relationship. -/
theorem relationship_of_idle {s : State} (hp : s.block.pending = .idle)
    (hc : s.block.life = .ready → s.block.cs = (wireView s.trace).latest) : s.Relationship where
  cache_is_latest := hc
  pending_was_sent _ _ _ h := nomatch hp.symm.trans h

/-- The relationship looks at the life, the channel, the pending request and the view of the history only. -/
theorem State.Relationship.congr {s t : State} (h : s.Relationship) (hl : t.block.life = s.block.life)
    (hc : t.block.cs = s.block.cs) (hp : t.block.pending = s.block.pending)
    (hw : wireView t.trace = wireView s.trace) : t.Relationship where
  cache_is_latest := by rw [hl, hc, hw]; exact h.cache_is_latest
  pending_was_sent := by rw [hp, hw]; exact h.pending_was_sent

/-- The frame of a pending SET was sent and carries its value, so the confirmation of the send establishes what the
commit writes into the cache. -/
theorem confirmed_latest {s : State} {c : CallerId} {v : Value} {f : Frame2} (hs : s.block.WellFormed)
    (hr : s.Relationship) (hp : s.block.pending = .setPending c v f) :
    ((wireView s.trace).observe (.sendCompleted (.ok 2))).latest = some ⟨v, false⟩ := by
  have hsent := hr.pending_was_sent c v f hp
  have hframe := hs.set_frame c v f hp
  simp [observe_sendCompleted_two, hsent, hframe]

theorem effect_keeps_relationship {i : Instr} {s t : State} (hs : s.block.WellFormed) (hr : s.Relationship)
    (h : Effect s i t) : t.Relationship := by
  cases h with
  | faulted k _ => exact hr.congr rfl rfl rfl rfl
  | answered e _ silent => exact hr.congr rfl rfl rfl (by simp [silent])
  | attachIssued arg c _ => exact ⟨by simpa using hr.cache_is_latest, nofun⟩
  | attachFailed r c st hst =>
    exact relationship_of_idle rfl (by simpa [observe_received_of_failed hst] using hr.cache_is_latest)
  | attached r c v hv => exact relationship_of_idle rfl (by simp [observe_received_of_done hv])
  | setIssued arg c v _ =>
    refine ⟨by simpa using hr.cache_is_latest, fun _ _ _ hp => ?_⟩
    cases hp
    simp
  | setFailed r c st h2 =>
    exact relationship_of_idle rfl (by simpa [observe_sendCompleted_of_ne h2] using hr.cache_is_latest)
  | setConfirmed c v f hp => exact relationship_of_idle rfl (by simp [confirmed_latest hs hr hp])
  | detached arg c hp => exact relationship_of_idle hp (by simp)

/-- R29 and R30 together: what the step keeps. R30 alone is not kept, since a commit needs R29's last clause. -/
def State.Invariant (s : State) : Prop := s.block.WellFormed ∧ s.Relationship

theorem State.Invariant.withInbox {s : State} (rest : List Record) (h : s.Invariant) :
    State.Invariant { s with inbox := rest } :=
  ⟨h.1, h.2.congr rfl rfl rfl rfl⟩

theorem step_keeps_invariant {s t : State} (hs : s.Invariant) (h : step s = .next t) : t.Invariant :=
  step_keeps State.Invariant.withInbox
    (fun hs => ⟨hs.1.of_marks _ true, hs.2.congr rfl rfl rfl rfl⟩)
    (fun hs he => ⟨effect_keeps_wellFormed hs.1 he, effect_keeps_relationship hs.1 hs.2 he⟩) hs h

theorem reset_invariant : State.reset.Invariant :=
  ⟨wellFormed_of_idle rfl (by decide), relationship_of_idle rfl nofun⟩

theorem reachable_invariant {s : State} (h : Reachable s) : s.Invariant := by
  induction h with
  | atReset => exact reset_invariant
  | presented r _ ih => exact ih.withInbox _
  | stepped _ hstep ih => exact step_keeps_invariant ih hstep

/-! ## The cache and the chip (R63) -/

/-- A receive that succeeds carries 3 bytes, and they decode to its value. -/
theorem three_bytes_of_done {r : RecvResult} {v : Value} (h : classifyRecv r = .done v) :
    ∃ b0 b1 b2, r = .ok [b0, b1, b2] ∧ codecDecode [b0, b1, b2] = .value v := by
  obtain ⟨bytes, rfl, hv⟩ := classifyRecv_eq_done.1 h
  obtain ⟨b0, b1, b2, rfl⟩ := codecDecode_eq_value hv
  exact ⟨b0, b1, b2, rfl, hv⟩

/-- An honest read-back that succeeds brings the chip register. -/
theorem value_eq_chip_of_honest {r : RecvResult} {v : Value} {s : State} (hh : ReadBackHonest r s)
    (h : classifyRecv r = .done v) : v = s.chip := by
  obtain ⟨b0, b1, b2, rfl, hv⟩ := three_bytes_of_done h
  exact CodecResult.value.inj (hv.symm.trans (hh b0 b1 b2 rfl))

theorem effect_keeps_inSync {i : Instr} {s t : State} (hs : s.InSync) (h : Effect s i t)
    (hrecv : ∀ r, i = .recvDone r → ReadBackHonest r s) (hsend : ∀ r, i = .sendDone r → r = .ok 2) : t.InSync := by
  cases h with
  | faulted k _ => exact hs
  | answered e _ _ => exact hs
  | attachIssued arg c _ => exact hs
  | attachFailed r c st _ => exact hs
  | attached r c v hv => exact fun _ => ⟨⟨v, true⟩, rfl, value_eq_chip_of_honest (hrecv r rfl) hv⟩
  | setIssued arg c v _ => exact hs
  | setFailed r c st h2 => exact absurd (hsend r rfl) h2
  | setConfirmed c v f _ => exact fun _ => ⟨⟨v, false⟩, rfl, rfl⟩
  | detached arg c _ => exact nofun

end Sys2Proof.Machine

open Sys2Proof Sys2Proof.Machine

/-! ## The obligations of 10_state.md -/

/-- Settles O44, effect by effect (`effect_keeps_wellFormed`). -/
theorem stepKeepsTheBlockWellFormed : Obligations.StepKeepsTheBlockWellFormed := by
  intro s t hs h
  exact step_keeps (P := fun s => s.block.WellFormed) (fun _ hs => hs) (fun hs => hs.of_marks _ true)
    effect_keeps_wellFormed hs h

/-- Settles O45: the relationship is kept together with well-formedness (`step_keeps_invariant`), which ties the frame
of a pending SET to its value. -/
theorem stepKeepsTheCacheRelationship : Obligations.StepKeepsTheCacheRelationship := by
  intro s t hs hr h
  exact (step_keeps_invariant ⟨hs, hr⟩ h).2

/-- Settles O30: no effect of a host operation writes more than its own fields, and a fault only the mark. -/
theorem hostOperationFrame : Obligations.HostOperationFrame := by
  intro i s t h
  have he := exec_effect h
  cases i with
  | attach arg c => cases he <;> simp
  | get arg c => cases he <;> simp
  | set arg c => cases he <;> simp
  | detach arg c => cases he <;> simp
  | recvDone r => trivial
  | sendDone r => trivial
  | fastWrite v => trivial
  | readBack frame => trivial

/-- Settles O31: a receive writes the cache and the lifecycle only when 3 bytes decoded, a send the cache only when it
is confirmed. -/
theorem completionFrame : Obligations.CompletionFrame := by
  refine ⟨fun r s t h => ?_, fun r s t h => ?_⟩
  · cases exec_effect h with
    | faulted k hi => cases hi
    | answered e hi _ => exact absurd rfl hi
    | attachFailed _ c st _ => simp
    | attached _ c v hv =>
      obtain ⟨b0, b1, b2, rfl, -⟩ := three_bytes_of_done hv
      simp
  · cases exec_effect h with
    | faulted k hi => cases hi
    | answered e hi _ => exact absurd rfl hi
    | setFailed _ c st h2 => simp [h2]
    | setConfirmed c v f _ => simp

/-- Settles O42: a completed receive brings the chip register (`value_eq_chip_of_honest`), a confirmed send leaves its
value in cache and chip, and nothing else but a failed write touches either. -/
theorem cacheAgreesWithTheChipUnlessAWriteFails : Obligations.CacheAgreesWithTheChipUnlessAWriteFails := by
  intro i s t hs h hrecv hsend
  exact effect_keeps_inSync hs (exec_effect h) hrecv hsend

/-- Settles O47, by induction on the run (`reachable_invariant`). -/
theorem reachableStatesMeetTheInvariants : Obligations.ReachableStatesMeetTheInvariants := by
  intro s h
  exact reachable_invariant h

/-- Settles O16: the step and every instruction's meaning need a running block. -/
theorem markedBlockTakesNoStep : Obligations.MarkedBlockTakesNoStep := by
  refine ⟨rfl, rfl, fun s hmark => ⟨fun t h => ?_, fun i t h => ?_⟩⟩
  · exact not_running_of_marked hmark (step_eq_next.1 h).1
  · exact not_running_of_marked hmark (running_of_exec h)

/-- Settles O19, field by field. -/
theorem resetIsTheListedState : Obligations.ResetIsTheListedState :=
  ⟨rfl, rfl, rfl, rfl, rfl⟩

/-- Settles O46: at reset nothing is pending and there is no Channel (`reset_invariant`). -/
theorem resetMeetsTheInvariants : Obligations.ResetMeetsTheInvariants :=
  reset_invariant

end

section
/-! SUPPORT. The event history and the serialized transport of 20_memory.md (R53, R65), and the steps that GET and
SEND_DONE take from a Channel (R62, R66, R69): the laws of Laws/Exec.lean read forwards, from a guard to its next
state. -/

namespace Sys2Proof.Machine

/-! ## The history grows and the inbox is the step's alone -/

/-- An instruction only appends to the history and leaves what is presented alone. -/
theorem effect_appends {i : Instr} {s t : State} (h : Effect s i t) :
    (∃ es, t.trace = s.trace ++ es) ∧ t.inbox = s.inbox := by
  cases h with
  | faulted k _ => exact ⟨⟨[], by simp⟩, rfl⟩
  | answered e _ _ => exact ⟨⟨_, rfl⟩, rfl⟩
  | attachIssued arg c _ => exact ⟨⟨_, rfl⟩, rfl⟩
  | attachFailed r c st _ => exact ⟨⟨_, List.append_assoc ..⟩, rfl⟩
  | attached r c v _ => exact ⟨⟨_, List.append_assoc ..⟩, rfl⟩
  | setIssued arg c v _ => exact ⟨⟨_, rfl⟩, rfl⟩
  | setFailed r c st _ => exact ⟨⟨_, List.append_assoc ..⟩, rfl⟩
  | setConfirmed c v f _ => exact ⟨⟨_, List.append_assoc ..⟩, rfl⟩
  | detached arg c _ => exact ⟨⟨_, rfl⟩, rfl⟩

/-! ## GET and SEND_DONE, from the guard to the next state -/

variable {s : State}

/-- A delivered response is the last one of the history. -/
theorem responses_emit_responded (r : Response) :
    responses (s.emit (.responded r)).trace = responses s.trace ++ [r] :=
  responses_append s.trace [.responded r]

/-- GET from a running Ready block with a Channel (R143), whatever is pending. -/
theorem exec_get_of_ready {cs : ChannelState} (hs : s.Running) (hl : s.block.life = .ready)
    (hc : s.block.cs = some cs) (arg : Int) (c : CallerId) :
    exec (.get arg c) s = .next (s.emit (.responded ⟨c, .ok, some (cs.cachedValue.toNat : Int)⟩)) :=
  execGet_eq_next.2 ⟨hs, .inr ⟨hl, cs, hc, rfl⟩⟩

/-- A confirmed send commits the pending value (R145, R61). -/
theorem exec_sendDone_two {c : CallerId} {v : Value} {f : Frame2} {cs : ChannelState} (hs : s.Running)
    (hp : s.block.pending = .setPending c v f) (hc : s.block.cs = some cs) :
    exec (.sendDone (.ok 2)) s =
      .next (((((s.emit (.sendCompleted (.ok 2))).setPending .idle).setChannel (some ⟨v, false⟩)).setChip v).emit
        (.responded ⟨c, .ok, none⟩)) :=
  execSendDone_eq_next.2 ⟨hs, c, v, f, hp,
    finishSet_eq_next.2 (.inr ⟨classifySend_eq_done.2 rfl, cs, hc, rfl⟩)⟩

/-- A send completion with anything but a count of 2 is a failure. -/
theorem classifySend_failed_of_ne {r : SendResult} (h : r ≠ .ok 2) : ∃ st, classifySend r = .failed st := by
  cases hr : classifySend r with
  | failed st => exact ⟨st, rfl⟩
  | done u => exact absurd (classifySend_eq_done.1 hr) h

/-- A failed send answers its failure and leaves the chip a draw (R145, R62). -/
theorem exec_sendDone_of_failed {r : SendResult} {st : Status} {c : CallerId} {v : Value} {f : Frame2}
    (hs : s.Running) (hp : s.block.pending = .setPending c v f) (hr : classifySend r = .failed st) :
    exec (.sendDone r) s =
      .next (((s.emit (.sendCompleted r)).setPending .idle).drawChip.emit (.responded ⟨c, st, none⟩)) :=
  execSendDone_eq_next.2 ⟨hs, c, v, f, hp, finishSet_eq_next.2 (.inl ⟨st, hr, rfl⟩)⟩

/-- In a reachable Ready block the Channel exists and is what the wire last established (R29, R30). -/
theorem reachable_ready_channel (h : Reachable s) (hl : s.block.life = .ready) :
    ∃ cs, s.block.cs = some cs ∧ (wireView s.trace).latest = some cs := by
  obtain ⟨hwf, hrel⟩ := reachable_invariant h
  obtain ⟨cs, hc⟩ := Option.ne_none_iff_exists'.1 (hwf.channel_iff_ready.1 hl)
  exact ⟨cs, hc, (hrel.cache_is_latest hl).symm.trans hc⟩

end Sys2Proof.Machine

open Sys2Proof Sys2Proof.Machine

/-! ## The obligations of 20_memory.md -/

/-- Settles O18: the step takes the record, the instruction only appends (`effect_appends`), and waiting or refusing a
reserved op appends nothing. -/
theorem stepAppendsHistoryAndConsumesInOrder : Obligations.StepAppendsHistoryAndConsumesInOrder := by
  intro s t h
  obtain ⟨-, ⟨hin, -, rfl⟩ | ⟨r, rest, hin, ⟨i, -, hexec⟩ | ⟨op, -, rfl⟩⟩⟩ := step_eq_next.1 h
  · exact ⟨⟨[], by simp⟩, by simp [hin]⟩
  · simpa [hin] using effect_appends (exec_effect hexec)
  · exact ⟨⟨[], by simp⟩, by simp [hin]⟩

/-- Settles O39: of all that an instruction can append (`exec_events`), only ATTACH's receive and SET's send are
requests, and both are issued from Idle and left pending. -/
theorem transportRequestsAreSerialized : Obligations.TransportRequestsAreSerialized := by
  intro i s t es h he hreq
  rcases exec_events h he with rfl | ⟨c, rfl, hidle, hpend⟩ | ⟨a, c, v, -, -, rfl, hidle, hpend⟩ | ⟨r, rfl, -⟩ |
    ⟨r, ⟨x, rfl⟩ | ⟨x, rfl⟩, -⟩ | ⟨f, rfl⟩ | ⟨r, rfl⟩
  case inr.inl => exact ⟨hidle, by simp [hpend], rfl⟩
  case inr.inr.inl => exact ⟨hidle, by simp [hpend], rfl⟩
  all_goals exact absurd rfl hreq

/-- Settles O40: GET leaves the SET pending and answers the cache, and the completion leaves the block Ready with the
new value in it. -/
theorem racingGetAnswersOldOrNewValue : Obligations.RacingGetAnswersOldOrNewValue := by
  intro s c g v f cs arg hs hl hc hp
  constructor
  · exact ⟨_, _, exec_get_of_ready hs hl hc arg g, exec_sendDone_two (cs := cs) hs hp hc,
      responses_emit_responded _⟩
  · refine ⟨_, _, exec_sendDone_two hs hp hc, exec_get_of_ready (cs := ⟨v, false⟩) ?_ ?_ ?_ arg g,
      responses_emit_responded _⟩
    · exact hs
    · exact hl
    · rfl

/-- Settles O48: the reachable Channel is what the wire last established (`reachable_ready_channel`), and GET answers
it. -/
theorem reachableGetAnswersTheLastEstablishedValue : Obligations.ReachableGetAnswersTheLastEstablishedValue := by
  intro s arg c h hs hl
  obtain ⟨cs, hc, hlatest⟩ := reachable_ready_channel h hl
  exact ⟨cs, hlatest, exec_get_of_ready hs hl hc arg c⟩

/-- Settles O26: every completion but a count of 2 is a failure (`classifySend_failed_of_ne`), and a failure draws. -/
theorem failedWriteLeavesTheChipADraw : Obligations.FailedWriteLeavesTheChipADraw := by
  intro s c v f r hs hp h2
  obtain ⟨st, hst⟩ := classifySend_failed_of_ne h2
  exact ⟨_, exec_sendDone_of_failed hs hp hst, rfl, rfl⟩

end

section
/-! SUPPORT. The encodings of 30_encoding.md: ENCODE's frame field by field (R82, R92), the value DECODE assembles
(R91), and decoder and encoder read against each other (R80, R87, R89). -/

namespace Sys2Proof.Machine

/-! ## The write frame -/

/-- At every width, a shift left by 2 appends two zero bits. -/
theorem setWidth_shiftLeft_two (v : Value) (n : Nat) : v.setWidth n <<< 2 = (v ++ 0#2).setWidth n := by
  rw [BitVec.setWidth_append_eq_shiftLeft_setWidth_or, BitVec.setWidth_zero, BitVec.or_zero]

/-- ENCODE splits the 12-bit field `{v, 00}` at the byte boundary (40_codec.md R110). -/
theorem codecEncode_eq_split (v : Value) :
    codecEncode v = (((v ++ 0#2).extractLsb' 8 4).setWidth 8, (v ++ 0#2).extractLsb' 0 8) := by
  have hw : v.setWidth 12 <<< Config.writeAlignShift = v ++ 0#2 := by
    rw [Config.writeAlignShift, setWidth_shiftLeft_two, BitVec.setWidth_eq]
  rw [codecEncode, hw]

/-- The frame's bytes by the fields of the value (R92). -/
theorem codecEncode_eq_fields (v : Value) :
    codecEncode v = (0#4 ++ v.extractLsb' 6 4, v.extractLsb' 0 6 ++ 0#2) := by
  have hhigh : (v ++ 0#2).extractLsb' 8 4 = v.extractLsb' 6 4 := BitVec.extractLsb'_append_eq_of_le (by decide)
  have hlow : (v ++ 0#2).extractLsb' 0 8 = v.extractLsb' 0 6 ++ 0#2 := by
    rw [BitVec.extractLsb'_append_eq_ite, dif_pos (by decide), dif_neg (by decide)]
    rfl
  rw [codecEncode_eq_split, hhigh, hlow, BitVec.setWidth_eq_append (by decide), BitVec.cast_eq]

/-- The 16-bit view of the frame (R82). -/
theorem codecEncode_view (v : Value) :
    ((codecEncode v).1 ++ (codecEncode v).2 : BitVec 16) = 0#4 ++ (v ++ 0#2) := by
  have hhigh : ((v ++ 0#2).extractLsb' 8 4).setWidth 8 = 0#4 ++ (v ++ 0#2).extractLsb' 8 4 :=
    BitVec.setWidth_eq_append (by decide)
  rw [codecEncode_eq_split, hhigh]
  exact BitVec.append_assoc.trans (congrArg (0#4 ++ ·) BitVec.extractLsb'_append_extractLsb')

/-- The encoder's bytes, from the opcode table's pattern, are those of ENCODE (R80). -/
theorem fastWriteBytes_eq (v : Value) : fastWriteBytes v = [(codecEncode v).1, (codecEncode v).2] := by
  have hw : (0#4 ++ v ++ 0#2 : BitVec 16) = (codecEncode v).1 ++ (codecEncode v).2 :=
    BitVec.append_assoc.trans (codecEncode_view v).symm
  rw [fastWriteBytes, hw, BitVec.extractLsb'_append_eq_left, BitVec.extractLsb'_append_eq_right]

/-- ENCODE makes no padding bit (R81). -/
theorem fastWritePaddingZero_codecEncode (v : Value) : fastWritePaddingZero (codecEncode v) = true := by
  rw [fastWritePaddingZero_iff, codecEncode_eq_fields]
  exact ⟨BitVec.extractLsb'_append_eq_left, BitVec.extractLsb'_append_eq_right⟩

/-- A frame with zero padding is ENCODE of the value in its fields (R117). -/
theorem codecEncode_fastWriteValue {f : Frame2} (h : fastWritePaddingZero f = true) :
    codecEncode (fastWriteValue f) = f := by
  obtain ⟨hhigh, hlow⟩ := fastWritePaddingZero_iff.1 h
  rw [codecEncode_eq_fields, fastWriteValue, BitVec.extractLsb'_append_eq_left, BitVec.extractLsb'_append_eq_right,
    ← hhigh, ← hlow, BitVec.extractLsb'_append_extractLsb', BitVec.extractLsb'_append_extractLsb']

/-! ## The read-back value -/

/-- The two top bits of byte 2 are what the shift right by 6 leaves. -/
theorem ushiftRight_six_setWidth (b : Byte) : (b >>> 6).setWidth 10 = (b.extractLsb' 6 2).setWidth 10 := by
  have h : b >>> 6 = (b.extractLsb' 6 2).setWidth 8 := by
    rw [BitVec.ushiftRight_eq_extractLsb'_of_lt (by decide), BitVec.setWidth_eq_append (by decide)]
  rw [h, BitVec.setWidth_setWidth (by decide)]

/-- The shifted bytes of R91 make up `{b1, b2[7:6]}`. -/
theorem readBackValue_eq (b1 b2 : Byte) :
    b1 ++ b2.extractLsb' 6 2 = (b1.setWidth 10 <<< 2) ||| (b2 >>> 6).setWidth 10 := by
  rw [ushiftRight_six_setWidth, ← BitVec.setWidth_append_eq_shiftLeft_setWidth_or, BitVec.setWidth_eq]

/-! ## The records -/

/-- The write frames the decoder accepts are those of ENCODE (R80, R117; log 15). -/
theorem decodeWireWrite_eq_ok {bytes : List Byte} {i : Instr} :
    decodeWireWrite bytes = .ok i ↔ ∃ v, i = .fastWrite v ∧ bytes = [(codecEncode v).1, (codecEncode v).2] := by
  constructor
  · intro h
    unfold decodeWireWrite at h
    split at h
    · split at h
      · next hpad =>
        cases h
        exact ⟨_, rfl, by rw [codecEncode_fastWriteValue hpad]⟩
      · cases h
    · cases h
  · rintro ⟨v, rfl, rfl⟩
    simp [decodeWireWrite, fastWritePaddingZero_codecEncode]

/-- A host request that decodes is the encoding of its instruction (R87). -/
theorem encode_of_decodeHost {req : HostReq} {i : Instr} (h : decodeHost req = .ok i) : encode i = .host req := by
  have host_eq (op : BitVec 3) (hop : req.op.toNat = op.toNat) :
      Record.host ⟨op, req.arg, req.caller⟩ = .host req := by
    rw [← BitVec.eq_of_toNat_eq hop]
  unfold decodeHost at h
  split at h
  case h_5 => cases h
  all_goals
    cases h
    exact host_eq _ ‹_›

/-- An operand that SET accepts is the number of its value (R90). -/
theorem eq_toNat_of_setOperand {arg : Int} {v : Value} (h : setOperand arg = some v) : arg = v.toNat := by
  obtain ⟨hlow, hhigh, rfl⟩ := setOperand_eq_some.1 h
  rw [BitVec.toNat_ofInt]
  omega

end Sys2Proof.Machine

open Sys2Proof Sys2Proof.Machine

/-! ## The obligations of 30_encoding.md -/

/-- Settles O9, row by row: the bytes of FAST_WRITE are ENCODE's (`fastWriteBytes_eq`), and those decode to their value
(`decodeWireWrite_eq_ok`). -/
theorem decodeOfEncodeIsTheInstruction : Obligations.DecodeOfEncodeIsTheInstruction := by
  intro i
  cases i with
  | attach arg c => rfl
  | get arg c => rfl
  | set arg c => rfl
  | detach arg c => rfl
  | recvDone r => rfl
  | sendDone r => rfl
  | fastWrite v => exact decodeWireWrite_eq_ok.2 ⟨v, rfl, fastWriteBytes_eq v⟩
  | readBack frame => rfl

/-- Settles O10, port by port. -/
theorem encodeOfDecodeIsTheRecord : Obligations.EncodeOfDecodeIsTheRecord := by
  intro r i h
  cases r with
  | host req => exact encode_of_decodeHost h
  | xport c =>
    obtain ⟨kind, x, r⟩ := c
    cases h
    obtain rfl | rfl := BitVec.eq_zero_or_eq_one kind
    · rfl
    · rfl
  | wireWrite bytes =>
    obtain ⟨v, rfl, rfl⟩ := decodeWireWrite_eq_ok.1 h
    exact congrArg Record.wireWrite (fastWriteBytes_eq v)
  | wireRead bytes =>
    cases h
    rfl

/-- Settles O11 (`decodeWireWrite_eq_ok`). -/
theorem acceptedWriteFramesAreTheEncodedOnes : Obligations.AcceptedWriteFramesAreTheEncodedOnes := by
  intro bytes i
  exact decodeWireWrite_eq_ok

/-- Settles O38: of all that an instruction can append (`exec_events`), only SET's frame is a frame sent. -/
theorem onlySetSendsAndOnlyEncodedFrames : Obligations.OnlySetSendsAndOnlyEncodedFrames := by
  intro i s t es f h he hf
  rcases exec_events h he with rfl | ⟨c, rfl, -⟩ | ⟨a, c, v, rfl, ho, rfl, -⟩ | ⟨r, rfl, -⟩ |
    ⟨r, ⟨x, rfl⟩ | ⟨x, rfl⟩, -⟩ | ⟨g, rfl⟩ | ⟨r, rfl⟩
  case inr.inr.inl =>
    obtain rfl := List.mem_singleton.1 hf
    obtain rfl := eq_toNat_of_setOperand ho
    exact ⟨⟨v, c, rfl, rfl⟩, rfl, fastWritePaddingZero_iff.1 (fastWritePaddingZero_codecEncode v)⟩
  all_goals exact absurd hf List.not_mem_nil

/-- Settles O1 (`codecEncode_eq_fields`). -/
theorem encodeAssemblesTheWriteFrame : Obligations.EncodeAssemblesTheWriteFrame :=
  codecEncode_eq_fields

/-- Settles O2: every clause is read off the view `{0000, v, 00}` (`codecEncode_view`). -/
theorem writeFrameViewIsTheValueShiftedByTwo : Obligations.WriteFrameViewIsTheValueShiftedByTwo := by
  intro v w hw
  rw [codecEncode_view] at hw
  subst hw
  refine ⟨?_, BitVec.extractLsb'_append_eq_left, ?_, ?_, BitVec.extractLsb'_append_eq_right⟩
  · rw [setWidth_shiftLeft_two, BitVec.setWidth_eq_append (by decide), BitVec.cast_eq]
  · rw [BitVec.extractLsb'_append_eq_of_add_le (by decide), BitVec.extractLsb'_append_eq_left]
  · rw [BitVec.extractLsb'_append_eq_of_add_le (by decide), BitVec.extractLsb'_append_eq_right]

/-- Settles O4 (`readBackValue_eq`). -/
theorem decodeAssemblesTheReadBackValue : Obligations.DecodeAssemblesTheReadBackValue := by
  intro b0 b1 b2
  exact ⟨by rw [codecDecode_three, readBackValue_eq], readBackValue_eq b1 b2⟩

/-- Settles O12: ten closed words, evaluated. -/
theorem wordsOfTheOpcodeTableDecode : Obligations.WordsOfTheOpcodeTableDecode := by
  unfold Obligations.WordsOfTheOpcodeTableDecode
  decide

/-- Settles O13: the named codes compute, and none of them is 4 or more. -/
theorem operationCodesNameTheirOperations : Obligations.OperationCodesNameTheirOperations := by
  intro arg c x r
  refine ⟨rfl, rfl, rfl, rfl, fun op hop => ?_, rfl, rfl⟩
  simp only [decode, decodeHost]
  split
  case h_5 => rfl
  all_goals omega

end

section
/-! SUPPORT. The laws of 40_codec.md: ENCODE's image (R117), DECODE read off a frame and back (R113, R115, R118), the
two layouts beside each other (R116), and the two codec rows (R110, R112, R119). -/

namespace Sys2Proof.Machine

/-! ## DECODE -/

/-- DECODE on three bytes is `{b1, b2[7:6]}` (30_encoding.md R91). -/
theorem codecDecode_eq_fields (b0 b1 b2 : Byte) :
    codecDecode [b0, b1, b2] = .value (b1 ++ b2.extractLsb' 6 2) := by
  rw [codecDecode_three, readBackValue_eq]

/-- Only a value is answered on three bytes, so any other length is a FramingError (R113). -/
theorem codecDecode_eq_framingError {bytes : List Byte} (h : bytes.length ≠ 3) :
    codecDecode bytes = .framingError := by
  cases hd : codecDecode bytes with
  | framingError => rfl
  | value v =>
    obtain ⟨b0, b1, b2, rfl⟩ := codecDecode_eq_value hd
    exact absurd rfl h

/-- The value packed as `{v[9:2]}`, `{v[1:0], x}` decodes to itself, whatever byte 0 and the low bits `x` are
(R115, R118). -/
theorem codecDecode_packed (v : Value) (b0 : Byte) (x : BitVec 6) :
    codecDecode [b0, v.extractLsb' 2 8, v.extractLsb' 0 2 ++ x] = .value v := by
  rw [codecDecode_eq_fields, BitVec.extractLsb'_append_eq_left, BitVec.extractLsb'_append_extractLsb']

/-- The frames of a value are exactly the packed ones (R118). -/
theorem codecDecode_eq_value_iff {v : Value} {frame : List Byte} :
    codecDecode frame = .value v ↔
      ∃ (b0 : Byte) (x : BitVec 6), frame = [b0, v.extractLsb' 2 8, v.extractLsb' 0 2 ++ x] := by
  constructor
  · intro h
    obtain ⟨b0, b1, b2, rfl⟩ := codecDecode_eq_value h
    rw [codecDecode_eq_fields] at h
    cases h
    refine ⟨b0, b2.extractLsb' 0 6, ?_⟩
    rw [BitVec.extractLsb'_append_eq_left, BitVec.extractLsb'_append_eq_right, BitVec.extractLsb'_append_extractLsb']
  · rintro ⟨b0, x, rfl⟩
    exact codecDecode_packed v b0 x

/-! ## The read-back layout -/

/-- At every width, a shift left by `k` appends `k` zero bits. -/
theorem setWidth_shiftLeft_eq_append {w : Nat} (x : BitVec w) (n k : Nat) :
    x.setWidth n <<< k = (x ++ 0#k).setWidth n := by
  rw [BitVec.setWidth_append_eq_shiftLeft_setWidth_or, BitVec.setWidth_zero, BitVec.or_zero]

/-- Byte 2 of `readFrame`, `trunc_8((v & 3) << 6)`, is `{v[1:0], 000000}` (R115). -/
theorem readFrame_byte2_eq (v : Value) : ((v &&& 3#10) <<< 6).setWidth 8 = v.extractLsb' 0 2 ++ 0#6 := by
  have hmask : (v &&& 3#10).setWidth 2 = v.extractLsb' 0 2 := by
    rw [BitVec.setWidth_and, ← BitVec.setWidth_eq_extractLsb' (by decide)]
    exact BitVec.and_allOnes
  rw [BitVec.setWidth_shiftLeft_of_le (by decide), setWidth_shiftLeft_eq_append, BitVec.setWidth_append,
    dif_neg (by decide), BitVec.cast_eq, hmask]

/-- The two forms of the read-back frame are one (R115). -/
theorem readFrame_eq_packed (v : Value) (b0 : Byte) :
    readFrame v b0 = [b0, v.extractLsb' 2 8, v.extractLsb' 0 2 ++ 0#6] := by
  rw [readFrame, BitVec.setWidth_ushiftRight_eq_extractLsb, readFrame_byte2_eq]

/-- The 16-bit view of the read-back layout is the value left-aligned (R116). -/
theorem packed_view (v : Value) :
    (v.extractLsb' 2 8 ++ (v.extractLsb' 0 2 ++ 0#6) : BitVec 16) = v.setWidth 16 <<< 6 := by
  have hv : v.extractLsb' 2 8 ++ v.extractLsb' 0 2 = v := BitVec.extractLsb'_append_extractLsb'
  calc (v.extractLsb' 2 8 ++ (v.extractLsb' 0 2 ++ 0#6) : BitVec 16)
      = v.extractLsb' 2 8 ++ v.extractLsb' 0 2 ++ 0#6 := BitVec.append_assoc.symm
    _ = v ++ 0#6 := by rw [hv]
    _ = v.setWidth 16 <<< 6 := by rw [setWidth_shiftLeft_eq_append, BitVec.setWidth_eq]

/-- The 16-bit view of the write layout is the value right-aligned above the two padding bits (R116). -/
theorem codecEncode_view_eq_shiftLeft (v : Value) :
    ((codecEncode v).1 ++ (codecEncode v).2 : BitVec 16) = v.setWidth 16 <<< 2 := by
  rw [codecEncode_view, setWidth_shiftLeft_two, BitVec.setWidth_eq_append (by decide), BitVec.cast_eq]

/-! ## The codec rows -/

variable {s : State}

/-- FAST_WRITE only appends ENCODE's frame to the history (R110, R119; log 14). -/
theorem exec_fastWrite_of_running (hs : s.Running) (v : Value) :
    exec (.fastWrite v) s = .next (s.emit (.encoded (codecEncode v))) :=
  execFastWrite_eq_next.2 ⟨hs, rfl⟩

/-- READ_BACK only appends DECODE's answer to the history (R112, R119; log 14). -/
theorem exec_readBack_of_running (hs : s.Running) (frame : List Byte) :
    exec (.readBack frame) s = .next (s.emit (.decoded (codecDecode frame))) :=
  execReadBack_eq_next.2 ⟨hs, rfl⟩

end Sys2Proof.Machine

open Sys2Proof Sys2Proof.Machine

/-! ## The obligations of 40_codec.md -/

/-- Settles O3: the value is read back from the frame's fields (`fastWriteValue_codecEncode`), and a padded frame is
ENCODE of what its fields hold (`codecEncode_fastWriteValue`). -/
theorem encodeIsInjectiveOntoThePaddedFrames : Obligations.EncodeIsInjectiveOntoThePaddedFrames := by
  constructor
  · intro v v' h
    rw [← fastWriteValue_codecEncode v, h, fastWriteValue_codecEncode]
  · intro f
    rw [← fastWritePaddingZero_iff]
    constructor
    · rintro ⟨v, rfl⟩
      exact fastWritePaddingZero_codecEncode v
    · intro hpad
      exact ⟨_, codecEncode_fastWriteValue hpad⟩

/-- Settles O6: the answer depends on byte 1 and `b2[7:6]` alone (`codecDecode_eq_fields`), and the other 14 bits are
free and told apart (`codecDecode_eq_value_iff`). -/
theorem decodeIgnoresExactlyFourteenBits : Obligations.DecodeIgnoresExactlyFourteenBits := by
  refine ⟨?_, fun v frame => codecDecode_eq_value_iff, ?_⟩
  · intro b0 b0' b1 b2 b2' h
    rw [codecDecode_eq_fields, codecDecode_eq_fields, h]
  · intro v b0 b0' x x' h
    simp only [List.cons.injEq, true_and, and_true] at h
    exact h.imp_right (BitVec.append_right_inj _).1

/-- Settles O32: each row appends its one codec entry, which is neither a request nor a response. -/
theorem codecFrame : Obligations.CodecFrame := by
  rintro i s t (⟨v, rfl⟩ | ⟨frame, rfl⟩) h
  · obtain ⟨-, rfl⟩ := execFastWrite_eq_next.1 h
    exact ⟨rfl, rfl, rfl, rfl, _, rfl, rfl, rfl⟩
  · obtain ⟨-, rfl⟩ := execReadBack_eq_next.1 h
    exact ⟨rfl, rfl, rfl, rfl, _, rfl, rfl, rfl⟩

/-- Settles O5 (`codecDecode_eq_framingError`, `codecDecode_eq_fields`). -/
theorem decodeRejectsEveryOtherLength : Obligations.DecodeRejectsEveryOtherLength := by
  intro bytes
  refine ⟨codecDecode_eq_framingError, fun h => ?_⟩
  obtain ⟨b0, b1, b2, rfl⟩ := List.length_eq_three.1 h
  exact ⟨_, codecDecode_eq_fields b0 b1 b2⟩

/-- Settles O7: both forms are the packed frame (`readFrame_eq_packed`), which decodes to its value
(`codecDecode_packed`); the example is computed. -/
theorem readFrameDecodesToItsValue : Obligations.ReadFrameDecodesToItsValue := by
  refine ⟨fun v b0 => ?_, by decide, fun b0 => codecDecode_eq_fields b0 0x08 0x00⟩
  rw [readFrame_eq_packed]
  exact ⟨codecDecode_packed v b0 0#6, rfl, codecDecode_packed v b0 0#6⟩

/-- Settles O8: the write layout shifts the value by 2 (`codecEncode_view_eq_shiftLeft`), the read-back layout by 6
(`packed_view`). -/
theorem layoutsDifferByAShiftOfFour : Obligations.LayoutsDifferByAShiftOfFour := by
  rintro v b0 w rfl
  have hshift : ((codecEncode v).1 ++ (codecEncode v).2 : BitVec 16) <<< 4 = v.setWidth 16 <<< 6 := by
    rw [codecEncode_view_eq_shiftLeft, ← BitVec.shiftLeft_add]
  exact ⟨_, _, readFrame_eq_packed v b0, (packed_view v).trans hshift.symm, hshift⟩

/-- Settles O28 (`exec_fastWrite_of_running`), with ENCODE's frame by its fields. -/
theorem fastWriteAnswersTheEncodedFrame : Obligations.FastWriteAnswersTheEncodedFrame := by
  intro s v hs
  rw [exec_fastWrite_of_running hs, codecEncode_eq_fields]
  rfl

/-- Settles O29 (`exec_readBack_of_running`), with DECODE's answer by the length of the frame. -/
theorem readBackAnswersTheDecodedValue : Obligations.ReadBackAnswersTheDecodedValue := by
  intro s hs
  constructor
  · intro b0 b1 b2
    rw [exec_readBack_of_running hs, codecDecode_eq_fields]
    rfl
  · intro frame hlen
    rw [exec_readBack_of_running hs, codecDecode_eq_framingError hlen]
    rfl

end

section
/-! SUPPORT. The operations of 41_channel.md (R140 to R150): the laws of Laws/Exec.lean read forwards, one lemma per
branch of a meaning, from its guard to its next state. -/

namespace Sys2Proof.Machine

/-! ## What R29 gives a guard -/

/-- A Ready block has a Channel. -/
theorem BlockState.WellFormed.channel_of_ready {b : BlockState} (h : b.WellFormed) (hl : b.life = .ready) :
    ∃ cs, b.cs = some cs :=
  Option.ne_none_iff_exists'.1 (h.channel_iff_ready.1 hl)

/-- In a Ready block nothing but a SET can be pending. -/
theorem BlockState.WellFormed.pending_of_ready {b : BlockState} (h : b.WellFormed) (hl : b.life = .ready) :
    b.pending = .idle ∨ ∃ c v f, b.pending = .setPending c v f := by
  cases hp : b.pending with
  | idle => exact .inl rfl
  | attachPending c => exact nomatch hl.symm.trans (h.attach_uninitialized c hp)
  | setPending c v f => exact .inr ⟨c, v, f, rfl⟩

theorem life_uninitialized_of_ne_ready {l : Life} (h : l ≠ .ready) : l = .uninitialized := by
  cases l with
  | uninitialized => rfl
  | ready => exact absurd rfl h

/-! ## The operands -/

/-- The number of a value is in range and stands for it (30_encoding.md R90). -/
theorem setOperand_toNat (v : Value) : setOperand v.toNat = some v := by
  refine setOperand_eq_some.2 ⟨by omega, by omega, ?_⟩
  rw [BitVec.ofInt_natCast, BitVec.ofNat_toNat, BitVec.setWidth_eq]

/-- Every argument in range is the number of a value. -/
theorem exists_setOperand {arg : Int} (hlow : 0 ≤ arg) (hhigh : arg ≤ 1023) :
    ∃ v : Value, (v.toNat : Int) = arg ∧ setOperand arg = some v := by
  have ho : setOperand arg = some (BitVec.ofInt 10 arg) := setOperand_eq_some.2 ⟨hlow, hhigh, rfl⟩
  exact ⟨_, (eq_toNat_of_setOperand ho).symm, ho⟩

/-- Three bytes always decode, so a receive that fails did not bring them. -/
theorem not_three_bytes_of_failed {r : RecvResult} {st : Status} (h : classifyRecv r = .failed st) :
    ¬ ∃ b0 b1 b2, r = .ok [b0, b1, b2] := by
  rintro ⟨b0, b1, b2, rfl⟩
  cases h

theorem classifyRecv_of_length_ne {bytes : List Byte} (h : bytes.length ≠ 3) :
    classifyRecv (.ok bytes) = .failed .framingError := by
  simp [classifyRecv, codecDecode_eq_framingError h]

theorem classifySend_of_neg {n : Int} (h : n < 0) :
    classifySend (.ok n) = .failed (.transportError (.negativeCount n)) :=
  if_pos h

theorem classifySend_of_short {n : Int} (h0 : 0 ≤ n) (h2 : n ≠ 2) :
    classifySend (.ok n) = .failed .shortWriteError :=
  (if_neg (not_lt.2 h0)).trans (if_pos h2)

/-! ## From a guard to its next state -/

variable {s : State}

/-- ATTACH where a Channel exists or anything is pending (R141). -/
theorem exec_attach_of_busy (hs : s.Running) (hbusy : s.block.life = .ready ∨ s.block.pending ≠ .idle) (arg : Int)
    (c : CallerId) : exec (.attach arg c) s = .next (s.markFault .attachState) :=
  execAttach_eq_next.2 ⟨hs, .inl ⟨hbusy, rfl⟩⟩

/-- ATTACH otherwise (R141). -/
theorem exec_attach_of_free (hs : s.Running) (hfree : ¬(s.block.life = .ready ∨ s.block.pending ≠ .idle))
    (arg : Int) (c : CallerId) :
    exec (.attach arg c) s = .next ((s.emit (.receiveIssued 3)).setPending (.attachPending c)) :=
  execAttach_eq_next.2 ⟨hs, .inr ⟨hfree, rfl⟩⟩

/-- GET outside Ready (R143). -/
theorem exec_get_of_not_ready (hs : s.Running) (hl : s.block.life ≠ .ready) (arg : Int) (c : CallerId) :
    exec (.get arg c) s = .next (s.markFault .notReady) :=
  execGet_eq_next.2 ⟨hs, .inl ⟨hl, rfl⟩⟩

/-- SET outside Ready (R144). -/
theorem exec_set_of_not_ready (hs : s.Running) (hl : s.block.life ≠ .ready) (arg : Int) (c : CallerId) :
    exec (.set arg c) s = .next (s.markFault .notReady) :=
  execSet_eq_next.2 ⟨hs, .inl ⟨hl, rfl⟩⟩

/-- SET while anything is pending (R144): the argument is not looked at. -/
theorem exec_set_of_pending (hs : s.Running) (hl : s.block.life = .ready) (hp : s.block.pending ≠ .idle)
    (arg : Int) (c : CallerId) : exec (.set arg c) s = .next (s.markFault .concurrentSet) :=
  execSet_eq_next.2 ⟨hs, .inr (.inl ⟨hl, hp, rfl⟩)⟩

/-- SET of an argument out of range (R144). -/
theorem exec_set_of_operand_none {arg : Int} (hs : s.Running) (hl : s.block.life = .ready)
    (hp : s.block.pending = .idle) (ho : setOperand arg = none) (c : CallerId) :
    exec (.set arg c) s = .next (s.emit (.responded ⟨c, .rangeError, none⟩)) :=
  execSet_eq_next.2 ⟨hs, .inr (.inr (.inl ⟨hl, hp, ho, rfl⟩))⟩

/-- SET of an argument in range (R144). -/
theorem exec_set_of_operand_some {arg : Int} {v : Value} (hs : s.Running) (hl : s.block.life = .ready)
    (hp : s.block.pending = .idle) (ho : setOperand arg = some v) (c : CallerId) :
    exec (.set arg c) s = .next ((s.emit (.sent (codecEncode v))).setPending (.setPending c v (codecEncode v))) :=
  execSet_eq_next.2 ⟨hs, .inr (.inr (.inr ⟨hl, hp, v, ho, rfl⟩))⟩

/-- DETACH outside Ready (R146). -/
theorem exec_detach_of_not_ready (hs : s.Running) (hl : s.block.life ≠ .ready) (arg : Int) (c : CallerId) :
    exec (.detach arg c) s = .next (s.markFault .notReady) :=
  execDetach_eq_next.2 ⟨hs, .inl ⟨hl, rfl⟩⟩

/-- DETACH while anything is pending (R146). -/
theorem exec_detach_of_pending (hs : s.Running) (hl : s.block.life = .ready) (hp : s.block.pending ≠ .idle)
    (arg : Int) (c : CallerId) : exec (.detach arg c) s = .next (s.markFault .detachBusy) :=
  execDetach_eq_next.2 ⟨hs, .inr (.inl ⟨hl, hp, rfl⟩)⟩

/-- DETACH of a resting Channel (R146). -/
theorem exec_detach_of_idle (hs : s.Running) (hl : s.block.life = .ready) (hp : s.block.pending = .idle) (arg : Int)
    (c : CallerId) :
    exec (.detach arg c) s =
      .next (((s.setChannel none).setLife .uninitialized).emit (.responded ⟨c, .ok, none⟩)) :=
  execDetach_eq_next.2 ⟨hs, .inr (.inr ⟨hl, hp, rfl⟩)⟩

/-- RECV_DONE while an attach is pending (R142), whatever it brings. -/
theorem exec_recvDone_of_attachPending {c : CallerId} (hs : s.Running) (hp : s.block.pending = .attachPending c)
    (r : RecvResult) :
    exec (.recvDone r) s =
      .next (finishAttach c (classifyRecv r) ((s.emit (.received r)).setPending .idle)) :=
  execRecvDone_eq_next.2 ⟨hs, c, hp, rfl⟩

/-- A failed receive answers its failure and only clears the pending mark (R142, R241). -/
theorem exec_recvDone_of_failed {r : RecvResult} {st : Status} {c : CallerId} (hs : s.Running)
    (hp : s.block.pending = .attachPending c) (hr : classifyRecv r = .failed st) :
    exec (.recvDone r) s =
      .next (((s.emit (.received r)).setPending .idle).emit (.responded ⟨c, st, none⟩)) := by
  rw [exec_recvDone_of_attachPending hs hp, hr, finishAttach_failed]

/-- A receive that decodes makes the Channel (R142). -/
theorem exec_recvDone_of_done {r : RecvResult} {v : Value} {c : CallerId} (hs : s.Running)
    (hp : s.block.pending = .attachPending c) (hr : classifyRecv r = .done v) :
    exec (.recvDone r) s =
      .next (((((s.emit (.received r)).setPending .idle).setChannel (some ⟨v, true⟩)).setLife .ready).emit
        (.responded ⟨c, .ok, none⟩)) := by
  rw [exec_recvDone_of_attachPending hs hp, hr, finishAttach_done]

/-! ## Which instructions have a next state (R150) -/

/-- A host operation or codec row of a well-formed running block has a next state: each of its guards has one, and
GET finds the Channel it reads. -/
theorem exec_next_of_request (hs : s.Running) (hwf : s.block.WellFormed) {i : Instr} (hi : i.format ≠ .xportCpl) :
    ∃ t, exec i s = .next t := by
  cases i with
  | attach arg c =>
    by_cases hbusy : s.block.life = .ready ∨ s.block.pending ≠ .idle
    · exact ⟨_, exec_attach_of_busy hs hbusy arg c⟩
    · exact ⟨_, exec_attach_of_free hs hbusy arg c⟩
  | get arg c =>
    by_cases hl : s.block.life = .ready
    · obtain ⟨cs, hc⟩ := hwf.channel_of_ready hl
      exact ⟨_, exec_get_of_ready hs hl hc arg c⟩
    · exact ⟨_, exec_get_of_not_ready hs hl arg c⟩
  | set arg c =>
    by_cases hl : s.block.life = .ready
    · by_cases hp : s.block.pending = .idle
      · cases ho : setOperand arg with
        | none => exact ⟨_, exec_set_of_operand_none hs hl hp ho c⟩
        | some v => exact ⟨_, exec_set_of_operand_some hs hl hp ho c⟩
      · exact ⟨_, exec_set_of_pending hs hl hp arg c⟩
    · exact ⟨_, exec_set_of_not_ready hs hl arg c⟩
  | detach arg c =>
    by_cases hl : s.block.life = .ready
    · by_cases hp : s.block.pending = .idle
      · exact ⟨_, exec_detach_of_idle hs hl hp arg c⟩
      · exact ⟨_, exec_detach_of_pending hs hl hp arg c⟩
    · exact ⟨_, exec_detach_of_not_ready hs hl arg c⟩
  | recvDone r => exact absurd rfl hi
  | sendDone r => exact absurd rfl hi
  | fastWrite v => exact ⟨_, exec_fastWrite_of_running hs v⟩
  | readBack frame => exact ⟨_, exec_readBack_of_running hs frame⟩

theorem exec_recvDone_next_iff (hs : s.Running) (r : RecvResult) :
    (∃ t, exec (.recvDone r) s = .next t) ↔ ∃ c, s.block.pending = .attachPending c := by
  constructor
  · rintro ⟨t, h⟩
    obtain ⟨-, c, hp, -⟩ := execRecvDone_eq_next.1 h
    exact ⟨c, hp⟩
  · rintro ⟨c, hp⟩
    exact ⟨_, exec_recvDone_of_attachPending hs hp r⟩

/-- A pending SET means a Channel (R29), so the commit has one to write. -/
theorem exec_sendDone_next_iff (hs : s.Running) (hwf : s.block.WellFormed) (r : SendResult) :
    (∃ t, exec (.sendDone r) s = .next t) ↔ ∃ c v f, s.block.pending = .setPending c v f := by
  constructor
  · rintro ⟨t, h⟩
    obtain ⟨-, c, v, f, hp, -⟩ := execSendDone_eq_next.1 h
    exact ⟨c, v, f, hp⟩
  · rintro ⟨c, v, f, hp⟩
    by_cases h2 : r = .ok 2
    · obtain ⟨cs, hc⟩ := hwf.channel_of_ready (hwf.set_ready c v f hp)
      exact ⟨_, h2 ▸ exec_sendDone_two hs hp hc⟩
    · obtain ⟨st, hst⟩ := classifySend_failed_of_ne h2
      exact ⟨_, exec_sendDone_of_failed hs hp hst⟩

/-! ## The rows of the transition table (R140) -/

variable {t : State}

/-- RECV_DONE's two rows: Ready exactly when three bytes came. -/
theorem recvDone_row {r : RecvResult} (hwf : s.block.WellFormed) (h : execRecvDone r s = .next t) :
    s.block.life = .uninitialized ∧ (∃ c, s.block.pending = .attachPending c) ∧ t.block.pending = .idle ∧
      (t.block.life = .ready ↔ ∃ b0 b1 b2, r = .ok [b0, b1, b2]) := by
  obtain ⟨-, c, hp, rfl⟩ := execRecvDone_eq_next.1 h
  have hl := hwf.attach_uninitialized c hp
  refine ⟨hl, ⟨c, hp⟩, ?_⟩
  cases hr : classifyRecv r with
  | failed st => simpa [hl] using not_three_bytes_of_failed hr
  | done v =>
    obtain ⟨b0, b1, b2, rfl, -⟩ := three_bytes_of_done hr
    simp

/-- SEND_DONE's rows: whatever the send brought, the block rests in Ready. -/
theorem sendDone_row {r : SendResult} (hwf : s.block.WellFormed) (h : execSendDone r s = .next t) :
    s.block.life = .ready ∧ (∃ c v f, s.block.pending = .setPending c v f) ∧
      t.block.life = .ready ∧ t.block.pending = .idle := by
  obtain ⟨-, c, v, f, hp, hfin⟩ := execSendDone_eq_next.1 h
  have hl := hwf.set_ready c v f hp
  refine ⟨hl, ⟨c, v, f, hp⟩, ?_⟩
  rcases finishSet_eq_next.1 hfin with ⟨st, -, rfl⟩ | ⟨-, cs, -, rfl⟩
  · exact ⟨hl, rfl⟩
  · exact ⟨hl, rfl⟩

/-- SET's two rows, by the range of the argument. -/
theorem set_row {arg : Int} {c : CallerId} (h : execSet arg c s = .next t) (hnf : t.block.fault = none) :
    s.block.life = .ready ∧ s.block.pending = .idle ∧ t.block.life = .ready ∧
      if arg < 0 ∨ arg > 1023 then t.block.pending = .idle else ∃ v f, t.block.pending = .setPending c v f := by
  rcases (execSet_eq_next.1 h).2 with ⟨-, rfl⟩ | ⟨-, -, rfl⟩ | ⟨hl, hp, ho, rfl⟩ | ⟨hl, hp, v, ho, rfl⟩
  · cases hnf
  · cases hnf
  · rw [if_pos (setOperand_eq_none.1 ho)]
    exact ⟨hl, hp, hl, hp⟩
  · obtain ⟨hlow, hhigh, -⟩ := setOperand_eq_some.1 ho
    rw [if_neg (by omega)]
    exact ⟨hl, hp, hl, v, _, rfl⟩

/-! ## A completion's answer and a confirmed SET -/

/-- A completion and the response to it add that one response to the history, and no transport request. -/
theorem history_of_completion {e : Obs} (hresp : responses [e] = []) (hreq : transportRequests [e] = [])
    (es : List Obs) (r : Response) :
    responses (es ++ [e] ++ [.responded r]) = responses es ++ [r] ∧
      transportRequests (es ++ [e] ++ [.responded r]) = transportRequests es := by
  rw [responses_append, responses_append, hresp, transportRequests_append, transportRequests_append, hreq,
    List.append_nil, List.append_nil]
  exact ⟨rfl, List.append_nil _⟩

/-- A running Ready, Idle block whose Channel is `cs`. -/
structure State.Resting (s : State) (cs : ChannelState) : Prop where
  running : s.Running
  ready : s.block.life = .ready
  channel : s.block.cs = some cs
  idle : s.block.pending = .idle

/-- A SET of a value's own number, confirmed, sends its frame once and leaves the block resting on the value,
whatever was cached before (R147). -/
theorem confirmed_set {cs : ChannelState} (h : s.Resting cs) (v : Value) (c : CallerId) :
    ∃ t u, exec (.set v.toNat c) s = .next t ∧ exec (.sendDone (.ok 2)) t = .next u ∧ u.Resting ⟨v, false⟩ ∧
      sentFrames u.trace = sentFrames s.trace ++ [codecEncode v] :=
  ⟨_, _, exec_set_of_operand_some h.running h.ready h.idle (setOperand_toNat v) c,
    exec_sendDone_two (cs := cs) h.running rfl h.channel, ⟨h.running, h.ready, rfl, rfl⟩, by simp [sentFrames]⟩

end Sys2Proof.Machine

open Sys2Proof Sys2Proof.Machine

/-! ## The obligations of 41_channel.md -/

/-- Settles O33 (`exec_next_of_request`, `exec_recvDone_next_iff`, `exec_sendDone_next_iff`). -/
theorem everyRequestStepsAndCompletionsOnlyWhenPending :
    Obligations.EveryRequestStepsAndCompletionsOnlyWhenPending := by
  intro s hs hwf
  exact ⟨fun i => exec_next_of_request hs hwf, exec_recvDone_next_iff hs, exec_sendDone_next_iff hs hwf⟩

/-- Settles O35, row by row: a branch that faults marks the state, and every other one is a row of the table. -/
theorem transitionsAreThoseOfTheTable : Obligations.TransitionsAreThoseOfTheTable := by
  intro i s t hwf h hnf
  cases i with
  | attach arg c =>
    rcases (execAttach_eq_next.1 h).2 with ⟨-, rfl⟩ | ⟨hfree, rfl⟩
    · cases hnf
    · obtain ⟨hl, hp⟩ := not_or.1 hfree
      have hun := life_uninitialized_of_ne_ready hl
      exact ⟨hun, not_not.1 hp, hun, rfl⟩
  | get arg c =>
    rcases (execGet_eq_next.1 h).2 with ⟨-, rfl⟩ | ⟨hl, cs, -, rfl⟩
    · cases hnf
    · exact ⟨hl, hwf.pending_of_ready hl, rfl⟩
  | set arg c => exact set_row h hnf
  | detach arg c =>
    rcases (execDetach_eq_next.1 h).2 with ⟨-, rfl⟩ | ⟨-, -, rfl⟩ | ⟨hl, hp, rfl⟩
    · cases hnf
    · cases hnf
    · exact ⟨hl, hp, rfl, hp⟩
  | recvDone r => exact recvDone_row hwf h
  | sendDone r => exact sendDone_row hwf h
  | fastWrite v =>
    obtain ⟨-, rfl⟩ := execFastWrite_eq_next.1 h
    rfl
  | readBack frame =>
    obtain ⟨-, rfl⟩ := execReadBack_eq_next.1 h
    rfl

/-- Settles O37: of all that an instruction can append (`exec_events`), a response comes alone or after a completion,
and then with no transport request. -/
theorem errorResponsesLeaveTheCacheUntouched : Obligations.ErrorResponsesLeaveTheCacheUntouched := by
  intro i s t es r h he hr herr
  rcases exec_events h he with rfl | ⟨c, rfl, -⟩ | ⟨a, c, v, -, -, rfl, -⟩ | ⟨r', rfl, hcs⟩ |
    ⟨r', ⟨x, rfl⟩ | ⟨x, rfl⟩, -, hcs⟩ | ⟨f, rfl⟩ | ⟨d, rfl⟩
  case inr.inr.inr.inl | inr.inr.inr.inr.inl.inl | inr.inr.inr.inr.inl.inr =>
    obtain rfl := List.mem_singleton.1 hr
    exact ⟨hcs herr, fun _ => rfl⟩
  all_goals exact absurd hr List.not_mem_nil

/-- Settles O41: a confirmed SET leads from rest to rest (`confirmed_set`), so it can be done twice, and GET then
reads what it left. -/
theorem repeatedSetSendsTwoIdenticalFrames : Obligations.RepeatedSetSendsTwoIdenticalFrames := by
  intro s v c g cs arg hs hl hc hp
  obtain ⟨s1, s2, hset, hdone, hrest, hsent⟩ := confirmed_set ⟨hs, hl, hc, hp⟩ v c
  obtain ⟨s3, s4, hset', hdone', hrest', hsent'⟩ := confirmed_set hrest v c
  have hget := exec_get_of_ready hrest'.running hrest'.ready hrest'.channel arg g
  refine ⟨s1, s2, s3, s4, _, hset, hdone, hset', hdone', hget, ?_, rfl⟩
  calc sentFrames (s4.trace ++ [.responded ⟨g, .ok, some (v.toNat : Int)⟩])
      = sentFrames s4.trace ++ [] := sentFrames_append ..
    _ = sentFrames s.trace ++ [codecEncode v, codecEncode v] := by rw [hsent', hsent]; simp

/-- Settles O20 (`exec_attach_of_busy`, `exec_attach_of_free`). -/
theorem attachIssuesTheReadBackOrFaults : Obligations.AttachIssuesTheReadBackOrFaults := by
  intro s arg c hs
  refine ⟨fun hbusy => exec_attach_of_busy hs hbusy arg c, ?_⟩
  rintro ⟨hl, hp⟩
  exact exec_attach_of_free hs (by simp [hl, hp]) arg c

/-- Settles O21: the transport's error and a wrong length are failures, three bytes decode to `{b1, b2[7:6]}`
(`codecDecode_eq_fields`), and each is answered once (`history_of_completion`). -/
theorem receiveCompletionFinishesTheAttach : Obligations.ReceiveCompletionFinishesTheAttach := by
  intro s c hs hp
  refine ⟨fun e => ?_, fun bytes hlen => ?_, fun b0 b1 b2 => ?_⟩
  · exact ⟨_, exec_recvDone_of_failed hs hp rfl, rfl, history_of_completion rfl rfl _ _⟩
  · exact ⟨_, exec_recvDone_of_failed hs hp (classifyRecv_of_length_ne hlen), rfl,
      history_of_completion rfl rfl _ _⟩
  · have hv := codecDecode_eq_fields b0 b1 b2
    exact ⟨_, _, exec_recvDone_of_done hs hp (classifyRecv_eq_done.2 ⟨_, rfl, hv⟩), hv, rfl, rfl,
      history_of_completion rfl rfl _ _⟩

/-- Settles O23 (`exec_get_of_not_ready`, `exec_get_of_ready`); a 10-bit value is at most 1023. -/
theorem getAnswersTheCacheOrFaults : Obligations.GetAnswersTheCacheOrFaults := by
  intro s arg c hs
  refine ⟨fun hl => exec_get_of_not_ready hs hl arg c, fun cs hl hc => ?_⟩
  exact ⟨_, rfl, by omega, by omega, exec_get_of_ready hs hl hc arg c⟩

/-- Settles O24, check by check; an argument in range is the number of the value sent (`exists_setOperand`). -/
theorem setChecksThenSendsTheEncodedValue : Obligations.SetChecksThenSendsTheEncodedValue := by
  intro s arg c hs
  refine ⟨fun hl => exec_set_of_not_ready hs hl arg c, ?_, ?_, ?_⟩
  · rintro ⟨hl, hp⟩
    exact exec_set_of_pending hs hl hp arg c
  · rintro ⟨hl, hp, hout⟩
    exact exec_set_of_operand_none hs hl hp (setOperand_eq_none.2 hout) c
  · rintro ⟨hl, hp, hlow, hhigh⟩
    obtain ⟨v, hv, ho⟩ := exists_setOperand hlow hhigh
    exact ⟨v, hv, exec_set_of_operand_some hs hl hp ho c⟩

/-- Settles O25: a count of 2 commits (`exec_sendDone_two`), everything else is a failure with its own status
(`exec_sendDone_of_failed`), and each is answered once (`history_of_completion`). -/
theorem sendCompletionCommitsOrFails : Obligations.SendCompletionCommitsOrFails := by
  intro s c v hs hp
  refine ⟨fun cs hc => ?_, fun e => ?_, fun n hneg => ?_, fun n h0 h2 => ?_⟩
  · exact ⟨_, exec_sendDone_two hs hp hc, rfl, rfl, history_of_completion rfl rfl _ _⟩
  · exact ⟨_, exec_sendDone_of_failed hs hp rfl, rfl, history_of_completion rfl rfl _ _⟩
  · exact ⟨_, exec_sendDone_of_failed hs hp (classifySend_of_neg hneg), rfl, history_of_completion rfl rfl _ _⟩
  · exact ⟨_, exec_sendDone_of_failed hs hp (classifySend_of_short h0 h2), rfl, history_of_completion rfl rfl _ _⟩

/-- Settles O27: of a running block that rests in Ready, DETACH leaves every field at its reset value. -/
theorem detachDestroysTheChannelOrFaults : Obligations.DetachDestroysTheChannelOrFaults := by
  intro s arg c hs
  refine ⟨fun hl => exec_detach_of_not_ready hs hl arg c, ?_, ?_⟩
  · rintro ⟨hl, hp⟩
    exact exec_detach_of_pending hs hl hp arg c
  · rintro ⟨hl, hp⟩
    have ⟨hfault, hrefused⟩ := hs
    have hreset : { s.block with life := .uninitialized, cs := none } = BlockState.reset := by
      simp [BlockState.reset, hp, hfault, hrefused]
    rw [exec_detach_of_idle hs hl hp, ← hreset]
    rfl

end

section
/-! SUPPORT. The outcomes of a step of 60_exceptions.md: what a presented record becomes (R210, R207), and for which
causes a fault is raised (R206). -/

namespace Sys2Proof.Machine

variable {s t : State}

/-! ## The step on a presented record -/

/-- A running block takes the next record and handles it (R210). -/
theorem step_of_presented {r : Record} {rest : List Record} (hs : s.Running) (hin : s.inbox = r :: rest) :
    step s = handleRecord r { s with inbox := rest } := by
  have hfetch : fetch s = some (r, { s with inbox := rest }) := fetch_eq_some.2 ⟨rest, hin, rfl⟩
  rw [step, guarded_running hs, hfetch]

theorem handleRecord_of_decode_ok {r : Record} {i : Instr} (h : decode r = .ok i) (s : State) :
    handleRecord r s = exec i s := by
  rw [handleRecord, h]

/-- A record that decodes to a reserved op only sets the refusal mark (R207). -/
theorem handleRecord_of_reservedOp {r : Record} {op : BitVec 3} (h : decode r = .error (.reservedOp op)) (s : State) :
    handleRecord r s = .next s.markRefused := by
  rw [handleRecord, h]
  rfl

/-! ## The faults and their causes -/

/-- The causes of R206 in the order in which a meaning checks them: the lifecycle first, then what is pending. -/
inductive FaultCause (s : State) : Instr → Fault → Prop where
  | attachBusy (arg : Int) (c : CallerId) (h : s.block.life = .ready ∨ s.block.pending ≠ .idle) :
      FaultCause s (.attach arg c) .attachState
  | getNotReady (arg : Int) (c : CallerId) (h : s.block.life ≠ .ready) : FaultCause s (.get arg c) .notReady
  | setNotReady (arg : Int) (c : CallerId) (h : s.block.life ≠ .ready) : FaultCause s (.set arg c) .notReady
  | setPending (arg : Int) (c : CallerId) (hl : s.block.life = .ready) (hp : s.block.pending ≠ .idle) :
      FaultCause s (.set arg c) .concurrentSet
  | detachNotReady (arg : Int) (c : CallerId) (h : s.block.life ≠ .ready) : FaultCause s (.detach arg c) .notReady
  | detachPending (arg : Int) (c : CallerId) (hl : s.block.life = .ready) (hp : s.block.pending ≠ .idle) :
      FaultCause s (.detach arg c) .detachBusy

variable {i : Instr} {k : Fault}

/-- A cause that holds is raised, and only the mark changes. -/
theorem FaultCause.exec_eq (h : FaultCause s i k) (hs : s.Running) : exec i s = .next (s.markFault k) := by
  cases h with
  | attachBusy arg c hbusy => exact exec_attach_of_busy hs hbusy arg c
  | getNotReady arg c hl => exact exec_get_of_not_ready hs hl arg c
  | setNotReady arg c hl => exact exec_set_of_not_ready hs hl arg c
  | setPending arg c hl hp => exact exec_set_of_pending hs hl hp arg c
  | detachNotReady arg c hl => exact exec_detach_of_not_ready hs hl arg c
  | detachPending arg c hl hp => exact exec_detach_of_pending hs hl hp arg c

/-- Only host operations touch the fault mark. -/
theorem effect_keeps_fault (h : Effect s i t) (hi : i.format ≠ .hostReq) : t.block.fault = s.block.fault := by
  cases h with
  | faulted k hhost => exact absurd hhost hi
  | answered e _ _ => rfl
  | attachIssued arg c _ => rfl
  | attachFailed r c st _ => rfl
  | attached r c v _ => rfl
  | setIssued arg c v _ => rfl
  | setFailed r c st _ => rfl
  | setConfirmed c v f _ => rfl
  | detached arg c _ => rfl

/-- Of the branches of a meaning, only those whose guard is a cause of R206 mark a fault. -/
theorem faultCause_of_exec (h : exec i s = .next t) (hk : t.block.fault = some k) : FaultCause s i k := by
  have hclear : s.block.fault ≠ some k := by simp [(running_of_exec h).1]
  cases i with
  | attach arg c =>
    rcases (execAttach_eq_next.1 h).2 with ⟨hbusy, rfl⟩ | ⟨-, rfl⟩
    · cases hk
      exact .attachBusy arg c hbusy
    · exact absurd hk hclear
  | get arg c =>
    rcases (execGet_eq_next.1 h).2 with ⟨hl, rfl⟩ | ⟨-, cs, -, rfl⟩
    · cases hk
      exact .getNotReady arg c hl
    · exact absurd hk hclear
  | set arg c =>
    rcases (execSet_eq_next.1 h).2 with ⟨hl, rfl⟩ | ⟨hl, hp, rfl⟩ | ⟨-, -, -, rfl⟩ | ⟨-, -, v, -, rfl⟩
    · cases hk
      exact .setNotReady arg c hl
    · cases hk
      exact .setPending arg c hl hp
    · exact absurd hk hclear
    · exact absurd hk hclear
  | detach arg c =>
    rcases (execDetach_eq_next.1 h).2 with ⟨hl, rfl⟩ | ⟨hl, hp, rfl⟩ | ⟨-, -, rfl⟩
    · cases hk
      exact .detachNotReady arg c hl
    · cases hk
      exact .detachPending arg c hl hp
    · exact absurd hk hclear
  | recvDone r | sendDone r | fastWrite v | readBack frame =>
    have hsame := effect_keeps_fault (exec_effect h) nofun
    exact absurd (hsame.symm.trans hk) hclear

/-- An instruction marks a fault exactly when the fault has a cause. -/
theorem exec_marks_iff_faultCause (hs : s.Running) :
    (∃ t, exec i s = .next t ∧ t.block.fault = some k) ↔ FaultCause s i k :=
  ⟨fun ⟨_, h, hk⟩ => faultCause_of_exec h hk, fun h => ⟨_, h.exec_eq hs, rfl⟩⟩

/-! ## The causes, fault by fault -/

theorem faultCause_attachState :
    FaultCause s i .attachState ↔
      (∃ arg c, i = .attach arg c) ∧ (s.block.life = .ready ∨ s.block.pending ≠ .idle) := by
  constructor
  · intro h
    cases h with
    | attachBusy arg c hbusy => exact ⟨⟨arg, c, rfl⟩, hbusy⟩
  · rintro ⟨⟨arg, c, rfl⟩, hbusy⟩
    exact .attachBusy arg c hbusy

theorem faultCause_notReady :
    FaultCause s i .notReady ↔
      ((∃ arg c, i = .get arg c) ∨ (∃ arg c, i = .set arg c) ∨ (∃ arg c, i = .detach arg c)) ∧
      s.block.life ≠ .ready := by
  constructor
  · intro h
    cases h with
    | getNotReady arg c hl => exact ⟨.inl ⟨arg, c, rfl⟩, hl⟩
    | setNotReady arg c hl => exact ⟨.inr (.inl ⟨arg, c, rfl⟩), hl⟩
    | detachNotReady arg c hl => exact ⟨.inr (.inr ⟨arg, c, rfl⟩), hl⟩
  · rintro ⟨⟨arg, c, rfl⟩ | ⟨arg, c, rfl⟩ | ⟨arg, c, rfl⟩, hl⟩
    · exact .getNotReady arg c hl
    · exact .setNotReady arg c hl
    · exact .detachNotReady arg c hl

/-- In a well-formed block, Ready with something pending is a pending SET (10_state.md R29). -/
theorem BlockState.WellFormed.ready_and_pending_iff {b : BlockState} (h : b.WellFormed) :
    (b.life = .ready ∧ b.pending ≠ .idle) ↔ ∃ c v f, b.pending = .setPending c v f := by
  constructor
  · rintro ⟨hl, hp⟩
    exact (h.pending_of_ready hl).resolve_left hp
  · rintro ⟨c, v, f, hp⟩
    exact ⟨h.set_ready c v f hp, by simp [hp]⟩

theorem faultCause_concurrentSet (hwf : s.block.WellFormed) :
    FaultCause s i .concurrentSet ↔ (∃ arg c, i = .set arg c) ∧ ∃ c v f, s.block.pending = .setPending c v f := by
  rw [← hwf.ready_and_pending_iff]
  constructor
  · intro h
    cases h with
    | setPending arg c hl hp => exact ⟨⟨arg, c, rfl⟩, hl, hp⟩
  · rintro ⟨⟨arg, c, rfl⟩, hl, hp⟩
    exact .setPending arg c hl hp

theorem faultCause_detachBusy (hwf : s.block.WellFormed) :
    FaultCause s i .detachBusy ↔ (∃ arg c, i = .detach arg c) ∧ ∃ c v f, s.block.pending = .setPending c v f := by
  rw [← hwf.ready_and_pending_iff]
  constructor
  · intro h
    cases h with
    | detachPending arg c hl hp => exact ⟨⟨arg, c, rfl⟩, hl, hp⟩
  · rintro ⟨⟨arg, c, rfl⟩, hl, hp⟩
    exact .detachPending arg c hl hp

/-! ## What each operation answers (R200) -/

/-- RECV_DONE answers the caller of the pending attach, whatever the receive brought. -/
theorem recvDone_answers {r : RecvResult} (h : execRecvDone r s = .next t) :
    ∃ c st, s.block.pending = .attachPending c ∧ t.block.pending = .idle ∧
      t.trace = s.trace ++ [.received r, .responded ⟨c, st, none⟩] := by
  obtain ⟨-, c, hp, rfl⟩ := execRecvDone_eq_next.1 h
  cases classifyRecv r with
  | failed st => exact ⟨c, st, hp, rfl, List.append_assoc ..⟩
  | done v => exact ⟨c, .ok, hp, rfl, List.append_assoc ..⟩

/-- SEND_DONE answers the caller of the pending SET, whatever the send brought. -/
theorem sendDone_answers {r : SendResult} (h : execSendDone r s = .next t) :
    ∃ c v f st, s.block.pending = .setPending c v f ∧ t.block.pending = .idle ∧
      t.trace = s.trace ++ [.sendCompleted r, .responded ⟨c, st, none⟩] := by
  obtain ⟨-, c, v, f, hp, hfin⟩ := execSendDone_eq_next.1 h
  rcases finishSet_eq_next.1 hfin with ⟨st, -, rfl⟩ | ⟨-, cs, -, rfl⟩
  · exact ⟨c, v, f, st, hp, rfl, List.append_assoc ..⟩
  · exact ⟨c, v, f, .ok, hp, rfl, List.append_assoc ..⟩

/-- SET answers RANGE_ERROR and leaves the block alone, or sends its frame and becomes pending for its caller. -/
theorem set_answers_or_pends {arg : Int} {c : CallerId} (h : execSet arg c s = .next t) (hnf : t.block.fault = none) :
    (t.trace = s.trace ++ [.responded ⟨c, .rangeError, none⟩] ∧ t.block.pending = s.block.pending) ∨
      ∃ v f, t.trace = s.trace ++ [.sent f] ∧ t.block.pending = .setPending c v f := by
  rcases (execSet_eq_next.1 h).2 with ⟨-, rfl⟩ | ⟨-, -, rfl⟩ | ⟨-, -, -, rfl⟩ | ⟨-, -, v, -, rfl⟩
  · cases hnf
  · cases hnf
  · exact .inl ⟨rfl, rfl⟩
  · exact .inr ⟨v, _, rfl, rfl⟩

end Sys2Proof.Machine

open Sys2Proof Sys2Proof.Machine

/-! ## The obligations of 60_exceptions.md -/

/-- Settles O34: a fault is marked exactly for its cause (`exec_marks_iff_faultCause`), each fault's causes are those of
R206, and a marked block takes no step. -/
theorem faultsAreRaisedExactlyForTheirCauses : Obligations.FaultsAreRaisedExactlyForTheirCauses := by
  intro i s k hs hwf
  refine ⟨(exec_marks_iff_faultCause hs).trans ?_, fun t h hk => ?_⟩
  · cases k with
    | attachState => exact faultCause_attachState
    | notReady => exact faultCause_notReady
    | concurrentSet => exact faultCause_concurrentSet hwf
    | detachBusy => exact faultCause_detachBusy hwf
  · have hmarked : t = s.markFault k :=
      Host.Outcome.next.inj (h.symm.trans ((faultCause_of_exec h hk).exec_eq hs))
    exact ⟨hmarked, markedBlockTakesNoStep.2.2 t (.inl (by simp [hk]))⟩

/-- Settles O36, operation by operation: the entries each adds to the history are written out, and they hold at most
one request and the answers claimed. -/
theorem everyOperationIsAnsweredExactlyOnce : Obligations.EveryOperationIsAnsweredExactlyOnce := by
  intro i s t h hnf
  cases i with
  | attach arg c =>
    rcases (execAttach_eq_next.1 h).2 with ⟨-, rfl⟩ | ⟨-, rfl⟩
    · cases hnf
    · exact ⟨_, rfl, Nat.le_refl 1, rfl, rfl⟩
  | get arg c =>
    rcases (execGet_eq_next.1 h).2 with ⟨-, rfl⟩ | ⟨-, cs, -, rfl⟩
    · cases hnf
    · exact ⟨_, rfl, Nat.zero_le 1, _, rfl⟩
  | set arg c =>
    rcases set_answers_or_pends h hnf with ⟨htr, hp⟩ | ⟨v, f, htr, hp⟩
    · exact ⟨_, htr, Nat.zero_le 1, .inl ⟨rfl, hp⟩⟩
    · exact ⟨_, htr, Nat.le_refl 1, .inr ⟨rfl, v, f, hp⟩⟩
  | detach arg c =>
    rcases (execDetach_eq_next.1 h).2 with ⟨-, rfl⟩ | ⟨-, -, rfl⟩ | ⟨-, -, rfl⟩
    · cases hnf
    · cases hnf
    · exact ⟨_, rfl, Nat.zero_le 1, rfl⟩
  | recvDone r =>
    obtain ⟨c, st, hp, hidle, htr⟩ := recvDone_answers h
    exact ⟨_, htr, Nat.zero_le 1, c, st, hp, rfl, hidle⟩
  | sendDone r =>
    obtain ⟨c, v, f, st, hp, hidle, htr⟩ := sendDone_answers h
    exact ⟨_, htr, Nat.zero_le 1, c, v, f, st, hp, rfl, hidle⟩
  | fastWrite v =>
    obtain ⟨-, rfl⟩ := execFastWrite_eq_next.1 h
    exact ⟨_, rfl, Nat.zero_le 1, rfl⟩
  | readBack frame =>
    obtain ⟨-, rfl⟩ := execReadBack_eq_next.1 h
    exact ⟨_, rfl, Nat.zero_le 1, rfl⟩

/-- Settles O14: the step hands the record on (`step_of_presented`), and its instruction is run. -/
theorem stepRunsTheDecodedInstruction : Obligations.StepRunsTheDecodedInstruction := by
  intro s r rest i hs hin hd
  rw [step_of_presented hs hin, handleRecord_of_decode_ok hd]

/-- Settles O15: an op of 4 or more decodes to no instruction (`operationCodesNameTheirOperations`), its record sets the
mark, and a marked block takes no step. -/
theorem reservedOperationIsRefused : Obligations.ReservedOperationIsRefused := by
  intro s op arg c rest hs hin hop
  obtain ⟨-, -, -, -, hreserved, -, -⟩ := operationCodesNameTheirOperations arg c unusedSend unusedRecv
  refine ⟨({ s with inbox := rest } : State).markRefused, ?_, rfl, markedBlockTakesNoStep.2.2 _ (.inr rfl)⟩
  rw [step_of_presented hs hin, handleRecord_of_reservedOp (hreserved op hop)]

end

section
/-! SUPPORT. The idle waits and the reset state of 70_reset_and_hazards.md (R242, R252, R253): a step with nothing
presented, and the fields a failed attach finds and leaves. -/

namespace Sys2Proof.Machine

variable {s : State}

/-! ## The step with nothing presented -/

/-- A running block whose inbox is empty awaits a record. -/
theorem step_of_nothing_presented (hs : s.Running) (hin : s.inbox = []) : step s = awaitRecord s := by
  rw [step, guarded_running hs, fetch_eq_none.2 hin]

/-- With nothing pending there is nothing to wait for: the run has ended (R253). -/
theorem awaitRecord_of_idle (hp : s.block.pending = .idle) : awaitRecord s = .refused .endOfRun := by
  rw [awaitRecord, hp]

/-! ## The block of a pending and of a failed attach -/

/-- A receive that did not bring three bytes fails, and its status is not OK (41_channel.md R142). -/
theorem classifyRecv_failed_of_not_three_bytes {r : RecvResult} (hr : ∀ b0 b1 b2, r ≠ .ok [b0, b1, b2]) :
    ∃ st, classifyRecv r = .failed st ∧ st ≠ .ok := by
  cases hc : classifyRecv r with
  | failed st => exact ⟨st, rfl, classifyRecv_failed_ne_ok hc⟩
  | done v =>
    obtain ⟨b0, b1, b2, h, -⟩ := three_bytes_of_done hc
    exact absurd h (hr b0 b1 b2)

/-- A well-formed block with an attach pending has no Channel (10_state.md R29). -/
theorem BlockState.WellFormed.no_channel_of_attachPending {b : BlockState} {c : CallerId} (h : b.WellFormed)
    (hp : b.pending = .attachPending c) : b.cs = none := by
  have hlife : b.life = .uninitialized := h.attach_uninitialized c hp
  by_contra hcs
  exact nomatch hlife.symm.trans (h.channel_iff_ready.2 hcs)

/-- A well-formed running block with an attach pending differs from the reset state (R34) in its pending mark only. -/
theorem idle_eq_reset_of_attachPending {c : CallerId} (hs : s.Running) (hwf : s.block.WellFormed)
    (hp : s.block.pending = .attachPending c) : { s.block with pending := .idle } = BlockState.reset := by
  obtain ⟨hfault, hrefused⟩ := hs
  simp [BlockState.reset, hwf.attach_uninitialized c hp, hwf.no_channel_of_attachPending hp, hfault, hrefused]

end Sys2Proof.Machine

open Sys2Proof Sys2Proof.Machine

/-! ## The obligations of 70_reset_and_hazards.md -/

/-- Settles O17: such a step is `awaitRecord`, which keeps a pending block as it is (`awaitRecord_eq_next`) and ends
the run of an idle one (`awaitRecord_of_idle`). -/
theorem nothingPresentedIsAHangOrTheEnd : Obligations.NothingPresentedIsAHangOrTheEnd := by
  intro s hs hin
  rw [step_of_nothing_presented hs hin]
  exact ⟨fun hp => awaitRecord_eq_next.2 ⟨hp, rfl⟩, fun hp => ⟨awaitRecord_of_idle hp, hs, hp, hin⟩⟩

/-- Settles O22: the completion fails (`classifyRecv_failed_of_not_three_bytes`), so it only clears the pending mark,
the one field in which the block differed from reset, and is answered once (`history_of_completion`). -/
theorem failedAttachReturnsTheBlockToReset : Obligations.FailedAttachReturnsTheBlockToReset := by
  intro s c r hs hwf hp hr
  obtain ⟨st, hfailed, hst⟩ := classifyRecv_failed_of_not_three_bytes hr
  have hanswer := (history_of_completion (e := .received r) rfl rfl s.trace ⟨c, st, none⟩).1
  exact ⟨_, st, exec_recvDone_of_failed hs hp hfailed, idle_eq_reset_of_attachPending hs hwf hp, hst, hanswer⟩

end
